-- ==== Sys2Proof/Word.lean ====
section
/-! DEFINITION. The word types of the block: the byte of both address spaces and the accumulator. -/

namespace Sys2Proof

/-- A byte of SRC or OUT (20_memory.md R50). -/
abbrev Byte := BitVec 8

/-- The accumulator of the bit reader, `ACC_W` = 24 bits (00_scope.md R9, log 6). -/
abbrev Acc := BitVec 24

end Sys2Proof
end

