-- ==== Sys2Proof/Config.lean ====
section
/-! DEFINITION. The constants the spec fixes (00_scope.md R7, R8) that the machine uses by name. The block leaves no value
open at run time (00_scope.md R19), so there is no free value here; the one open parameter that an element reads, `OUT_CAP`,
is chosen per session by the host (70_reset_and_hazards.md R243) and stands in State. -/

namespace Sys2Proof.Config

/-- `READ_N_MAX`: the widest read the bit reader admits (00_scope.md R7, 40_bitreader.md R105). -/
def readMax : Nat := 16

/-- `CODELEN_MAX`: the longest codeword of any alphabet (00_scope.md R8). -/
def codelenMax : Nat := 15

/-- `BTYPE_DYNAMIC`: the one block type that is decoded (00_scope.md R7). -/
def btypeDynamic : BitVec 2 := 2

/-- `SYM_EOB`: the end-of-block symbol (00_scope.md R7). -/
def symEob : Nat := 256

/-- `LEN_SYM_LO`, `LEN_SYM_HI`: the first and the last length symbol (00_scope.md R7). -/
def lenSymLo : Nat := 257
def lenSymHi : Nat := 285

/-- `DIST_SYM_HI`: the last distance symbol (00_scope.md R7). -/
def distSymHi : Nat := 29

/-- Bits of the longest element, format LD (30_encoding.md R71). -/
def maxElementBits : Nat := 48

end Sys2Proof.Config
end

