-- ==== Sys2Proof/Machine/State.lean ====
section
/-! DEFINITION. The state of the block as plain data (10_state.md R20 to R42), the parameters of a session, and the reasons the
model stops. -/

namespace Sys2Proof.Machine

/-- The `status` register (10_state.md R27). -/
inductive Status where
  | idle
  | busy
  | done
  | fault
deriving DecidableEq, Repr

/-- The `phase` register, the sequencer's control state (10_state.md R30). -/
inductive Phase where
  | idle
  | blockHdr
  | dynCounts
  | clLens
  | buildCl
  | clSyms
  | buildLd
  | symbols
  | done
  | fault
deriving DecidableEq, Repr

/-- The typed failures of the block (60_exceptions.md R211). Raising one is an architectural event: it leads to a NEXT state
(R214). It is not a `Fault` of the model. -/
inductive Failure where
  | unexpectedEndOfStream
  | invalidCodeLengths
  | invalidRunLength
  | invalidSymbol
  | corruptHuffmanCode
  | unsupportedBlockType
  | invalidDistance
  | outputCapacityExceeded
deriving DecidableEq, Repr

/-- A byte space of the block, SRC or OUT (20_memory.md R50), as address and byte pairs in canonical form: addresses strictly
rising. An unlisted address holds no value (log 15). -/
abbrev Memory := List Host.Cell

/-- A transaction of the host (44_stream_control.md R190, R191). -/
inductive HostCmd where
  /-- START: the byte source, the index of the first DEFLATE byte, and `OUT_CAP` (none: unbounded). -/
  | start (src : List Byte) (startPos : Nat) (outCap : Option Nat)
  /-- RESET. -/
  | reset
deriving DecidableEq, Repr

/-- The state of the block. DESIGN CHOICE, safe: a register that counts or indexes is a natural, and its range is part of the
invariant `Inv` (Safety.lean), as 10_state.md R20 allows (log 5). -/
structure State where
  /-- BitCursor (10_state.md R21). -/
  acc : Acc
  cnt : Nat
  pos : Nat
  /-- Control and status registers (R27, R28, R30); `err` is none for code 0. -/
  status : Status
  err : Option Failure
  phase : Phase
  /-- The latched block header (R29). -/
  bfinal : BitVec 1
  btype : BitVec 2
  /-- The latched counts of the dynamic header (R31). -/
  hlit : BitVec 5
  hdist : BitVec 5
  hclen : BitVec 4
  /-- Working registers (R24). -/
  cli : Nat
  idx : Nat
  sym : Nat
  extra : Nat
  rep : Nat
  length : Nat
  dsym : Nat
  distance : Nat
  offset : Nat
  wlen : Nat
  wval : Nat
  code : Nat
  /-- The code-length arrays and code tables (R32 to R35). -/
  clLen : Vector (BitVec 3) 19
  clCode : Vector (BitVec 7) 19
  lens : Vector (BitVec 4) 320
  llCode : Vector (BitVec 15) 288
  dCode : Vector (BitVec 15) 32
  /-- The output buffer (R37). -/
  out : Memory
  olen : Nat
  /-- Parameters of the session (R20, log 3, log 4). -/
  src : Memory
  srcLen : Nat
  startPos : Nat
  outCap : Option Nat
  /-- The model's own: the host's transaction that the next step takes (log 2). -/
  hostCmd : Option HostCmd
deriving DecidableEq, Repr

/-- Why the model stops without a next state. None of these is an event of the block. -/
inductive Fault where
  /-- Raised by `step` when no step is enabled: IDLE, DONE or FAULT (44_stream_control.md R192, 93 U22 "stuck"). Safe. -/
  | noStepEnabled
  /-- Raised by FETCH for an index below `src_len` that SRC does not list; no session reaches it (log 15). Safe. -/
  | srcByteAbsent
  /-- Raised by COPY for an index of OUT that holds no byte; no session reaches it (log 15). Safe. -/
  | outByteAbsent
  /-- Raised by CLLEN for `cli` past the 19 entries of `CL_ORDER`; no session reaches it (log 16). Safe. -/
  | clOrderRange
  /-- Raised by CL0 to CL15 for `idx` past the 320 entries of `lens`; no session reaches it (log 16). Safe. -/
  | lensRange
deriving DecidableEq, Repr

/-- What the model refuses to give a meaning. -/
inductive Refusal where
  /-- Answered by `exec` for an instruction that has no meaning yet. Safe. -/
  | notModelled (mnemonic : String)
  /-- Answered by READBITS and PEEKBITS for a width above 16 (40_bitreader.md R105); the sequencer asks no such read. Safe. -/
  | readTooWide
  /-- Answered by the decoder for a symbol number its alphabet does not have; no table yields one (30_encoding.md R76 to R78). Safe. -/
  | symbolOutsideAlphabet
  /-- Answered by START while BUSY (44_stream_control.md R190, 93 U20). Safe. -/
  | startWhileBusy
  /-- Answered by START with `start_pos` > `src_len` (44_stream_control.md R190, 93 U21). Safe. -/
  | startBeyondSource
deriving DecidableEq, Repr

/-- The state right after RESET (10_state.md R40, 70_reset_and_hazards.md R240). DESIGN CHOICE, unsafe: what R40 leaves
unspecified is zero (log 1), and the session's parameters are empty and unbounded (log 3, log 4). -/
def State.reset : State where
  acc := 0
  cnt := 0
  pos := 0
  status := .idle
  err := none
  phase := .idle
  bfinal := 0
  btype := 0
  hlit := 0
  hdist := 0
  hclen := 0
  cli := 0
  idx := 0
  sym := 0
  extra := 0
  rep := 0
  length := 0
  dsym := 0
  distance := 0
  offset := 0
  wlen := 0
  wval := 0
  code := 0
  clLen := Vector.replicate 19 0
  clCode := Vector.replicate 19 0
  lens := Vector.replicate 320 0
  llCode := Vector.replicate 288 0
  dCode := Vector.replicate 32 0
  out := []
  olen := 0
  src := []
  srcLen := 0
  startPos := 0
  outCap := none
  hostCmd := none

end Sys2Proof.Machine
end

