-- ==== Sys2Proof/Machine/Ops.lean ====
section
/-! DEFINITION. The named operations over the byte spaces and the registers: reading and writing a memory, the derived counts,
fault entry, the append to OUT, and the result type the micro-operations of an element are sequenced with. -/

namespace Sys2Proof.Machine

/-- What a micro-operation answers: a value and the state it leaves; a typed failure already entered (the step in progress is
abandoned at that line, 60_exceptions.md R214); or one of the model's own stops. -/
inductive Res (α : Type) where
  | ok (v : α) (s : State)
  | raised (s : State)
  | stop (f : Fault)
  | refuse (r : Refusal)

/-- Sequencing of two micro-operations. -/
def Res.bind {α β : Type} (r : Res α) (f : α → State → Res β) : Res β :=
  match r with
  | .ok v s => f v s
  | .raised s => .raised s
  | .stop x => .stop x
  | .refuse x => .refuse x

/-- The last micro-operation of a step, followed by what the step does with its answer. A raised failure is a next state. -/
def Res.finish {α : Type} (r : Res α) (f : α → State → Host.Outcome State Fault Refusal) :
    Host.Outcome State Fault Refusal :=
  match r with
  | .ok v s => f v s
  | .raised s => .next s
  | .stop x => .fault x
  | .refuse x => .refused x

/-! Memory (20_memory.md R50 to R52). -/

/-- `MemRead(m, a, 1)`; none where the memory lists no byte. -/
def Memory.read : Memory → Nat → Option Byte
  | [], _ => none
  | c :: m, a => if c.1 = a then some c.2 else Memory.read m a

/-- `MemWrite(m, a, 1, b)`, keeping the addresses strictly rising. -/
def Memory.write : Memory → Nat → Byte → Memory
  | [], a, b => [(a, b)]
  | c :: m, a, b =>
    if a < c.1 then (a, b) :: c :: m
    else if a = c.1 then (a, b) :: m
    else c :: Memory.write m a b

/-- The canonical form: addresses strictly rising. -/
def Memory.wf : Memory → Bool
  | [] => true
  | [_] => true
  | c :: d :: m => decide (c.1 < d.1) && Memory.wf (d :: m)

/-- The bytes of a list at addresses `a`, `a + 1`, and so on. -/
def Memory.ofBytesAt : Nat → List Byte → Memory
  | _, [] => []
  | a, b :: bs => (a, b) :: Memory.ofBytesAt (a + 1) bs

/-- The array `src[0 .. src_len-1]` the host supplies (20_memory.md R51). -/
def Memory.ofBytes (bs : List Byte) : Memory := Memory.ofBytesAt 0 bs

/-! Derived quantities, not separately stored (10_state.md R22, R31). -/

/-- The stream bit position, the block's program counter (10_state.md R22). -/
def State.bitpos (s : State) : Nat := 8 * s.pos - s.cnt

/-- `nlit = hlit + 257` (10_state.md R31). -/
def State.nlit (s : State) : Nat := s.hlit.toNat + 257

/-- `ndist = hdist + 1` (10_state.md R31). -/
def State.ndist (s : State) : Nat := s.hdist.toNat + 1

/-- `ncl = hclen + 4` (10_state.md R31). -/
def State.ncl (s : State) : Nat := s.hclen.toNat + 4

/-- `total = nlit + ndist` (10_state.md R31). -/
def State.total (s : State) : Nat := s.nlit + s.ndist

/-! Fault entry (60_exceptions.md R214). There is no return from a fault (R215): only START and RESET leave it. -/

/-- `raise f`: `err`, `status` and `phase` are written, and nothing else (R214). -/
def State.raise (f : Failure) (s : State) : State :=
  { s with err := some f, status := .fault, phase := .fault }

/-! The output buffer (20_memory.md R52, 43_block_symbols.md R173). -/

/-- `MemWrite(OUT, olen, 1, b)`: the append, which increments `olen` (20_memory.md R52). -/
def State.append (b : Byte) (s : State) : State :=
  { s with out := s.out.write s.olen b, olen := s.olen + 1 }

/-- Appending `n` more bytes would pass a finite `OUT_CAP` (43_block_symbols.md R173, 60_exceptions.md R213). -/
def State.overCap (s : State) (n : Nat) : Bool :=
  match s.outCap with
  | none => false
  | some cap => decide (cap < s.olen + n)

/-- The loop of COPY from offset `k` on, `n` iterations left: one byte read and one byte appended per iteration, in increasing
offset order (43_block_symbols.md R171, 70_reset_and_hazards.md R245). -/
def copyLoop (base : Nat) : Nat → Nat → State → Res Unit
  | 0, _, s => .ok () s
  | n + 1, k, s =>
    match s.out.read (base + k) with
    | none => .stop .outByteAbsent
    | some b => copyLoop base n (k + 1) (State.append b { s with offset := k })

/-- `COPY(length, distance)` (43_block_symbols.md R171): the base is fixed by `olen` when the copy starts. -/
def copy (length distance : Nat) (s : State) : Res Unit :=
  copyLoop (s.olen - distance) length 0 s

end Sys2Proof.Machine
end

