-- ==== Sys2Proof/Machine/BitReader.lean ====
section
/-! DEFINITION. The BitReader: FETCH, READBITS and PEEKBITS over the BitCursor (40_bitreader.md). -/

namespace Sys2Proof.Machine

/-- `FETCH()`: one byte of SRC at `pos`, or UnexpectedEndOfStream (40_bitreader.md R103). -/
def fetchByte (s : State) : Res Byte :=
  if s.srcLen ≤ s.pos then .raised (s.raise .unexpectedEndOfStream)
  else
    match s.src.read s.pos with
    | none => .stop .srcByteAbsent
    | some b => .ok b { s with pos := s.pos + 1 }

/-- The refill loop of READBITS and PEEKBITS: whole bytes, OR-ed in at bit `cnt`, while `cnt < n` (40_bitreader.md R101). Each
turn adds 8 to `cnt`, so `n` turns always suffice. -/
def refill (n : Nat) : Nat → State → Res Unit
  | 0, s => .ok () s
  | turns + 1, s =>
    if s.cnt < n then
      (fetchByte s).bind fun b s =>
        refill n turns { s with acc := s.acc ||| (b.setWidth 24 <<< s.cnt), cnt := s.cnt + 8 }
    else .ok () s

/-- `PEEKBITS(n)`: the next `n` stream bits, first bit at bit 0, not consumed (40_bitreader.md R102). The sequencer never issues
it. A width above 16 is refused (R105). -/
def peekBits (n : Nat) (s : State) : Res Nat :=
  if Config.readMax < n then .refuse .readTooWide
  else (refill n n s).bind fun _ s => .ok (s.acc.toNat % 2 ^ n) s

/-- `READBITS(n)`: the same bits, consumed: `acc` shifts right by `n` and `cnt` falls by `n` (40_bitreader.md R101). -/
def readBits (n : Nat) (s : State) : Res Nat :=
  (peekBits n s).bind fun v s => .ok v { s with acc := s.acc >>> n, cnt := s.cnt - n }

end Sys2Proof.Machine
end

