-- ==== Sys2Proof/Machine/Huffman.lean ====
section
/-! DEFINITION. The CanonicalHuffmanBuilder and the symbol decoder: BUILD and DECODE_SYM (41_huffman_builder.md). -/

namespace Sys2Proof.Machine

/-- A CanonicalCodeTable: for each symbol its code length (0: unused) and its code value (41_huffman_builder.md R121, R124). -/
abbrev CodeTable := List (Nat × Nat)

/-! BUILD. -/

/-- `minLen` and `maxLen` over the non-zero entries (41_huffman_builder.md R123 step 1). -/
def minLen (lens : List Nat) : Nat := (lens.filter (· ≠ 0)).min?.getD 0
def maxLen (lens : List Nat) : Nat := lens.foldl max 0

/-- The inner loop of BUILD at length `L`: in increasing symbol id, each symbol of that length takes the running value, which then
grows by 1 (41_huffman_builder.md R123). The error is the running value that did not fit in `L` bits (R125). -/
def assignLength (L : Nat) : List Nat → List (Option Nat) → Nat → Except Nat (List (Option Nat) × Nat)
  | l :: ls, c :: cs, code =>
    if l = L then
      if 2 ^ L ≤ code then .error code
      else
        match assignLength L ls cs (code + 1) with
        | .error e => .error e
        | .ok r => .ok (some code :: r.1, r.2)
    else
      match assignLength L ls cs code with
      | .error e => .error e
      | .ok r => .ok (c :: r.1, r.2)
  | _, _, code => .ok ([], code)

/-- The outer loop of BUILD, `n` lengths left from `L` on. The running value shifts left once per length after the first, also for
lengths no symbol has (41_huffman_builder.md R123, 70_reset_and_hazards.md R252). -/
def assignFrom (lens : List Nat) (first : Nat) :
    Nat → Nat → List (Option Nat) → Nat → Except Nat (List (Option Nat) × Nat)
  | 0, _, codes, code => .ok (codes, code)
  | n + 1, L, codes, code =>
    match assignLength L lens codes (if first < L then code <<< 1 else code) with
    | .error e => .error e
    | .ok r => assignFrom lens first n (L + 1) r.1 r.2

/-- `BUILD(len)` for an input that is not all zero: the code of each used symbol, none for an unused one, with the running value
at the end; or the running value that did not fit (41_huffman_builder.md R123, R125). -/
def canonicalCodes (lens : List Nat) : Except Nat (List (Option Nat) × Nat) :=
  assignFrom lens (minLen lens) (maxLen lens + 1 - minLen lens) (minLen lens) (lens.map fun _ => none) 0

/-- `BUILD(len)` (41_huffman_builder.md R121): InvalidCodeLengths for an all-zero array (R122) and for an over-subscribed one
(R125); otherwise the codes. The register `code` keeps the running value (10_state.md R24). -/
def build (lens : List Nat) (s : State) : Res (List (Option Nat)) :=
  if lens.all (· = 0) then .raised (s.raise .invalidCodeLengths)
  else
    match canonicalCodes lens with
    | .error c => .raised (State.raise .invalidCodeLengths { s with code := c })
    | .ok r => .ok r.1 { s with code := r.2 }

/-- Writing the codes BUILD assigned into a table register file. DESIGN CHOICE, safe: an entry BUILD defines no code for is not
written (log 14). -/
def storeCodes {w n : Nat} (old : Vector (BitVec w) n) (codes : List (Option Nat)) : Vector (BitVec w) n :=
  Vector.ofFn fun i =>
    match codes[i.val]? with
    | some (some c) => BitVec.ofNat w c
    | _ => old[i]

/-! The three code-length arrays and code tables as views of the state (10_state.md R32 to R35). -/

/-- `cl_len` as the array BUILD_CL reads (42_dynamic_header.md R143). -/
def State.clLens (s : State) : List Nat := s.clLen.toList.map (·.toNat)

/-- `ll_len`: entries 0 to nlit-1 of the combined array (10_state.md R34). DESIGN CHOICE, safe: the view is taken anew from `hlit` at
every use, also by LLSYM, although R31 and R42 say that no step reads `hlit` and `hdist` after BUILD_LD (log 25). -/
def State.llLens (s : State) : List Nat := (s.lens.toList.take s.nlit).map (·.toNat)

/-- `d_len`: entries nlit to total-1 of the combined array (10_state.md R34). DESIGN CHOICE, safe: the view is taken anew from `hlit`
and `hdist` at every use, also by LLSYM, as for `ll_len` (log 25). -/
def State.dLens (s : State) : List Nat := ((s.lens.toList.drop s.nlit).take s.ndist).map (·.toNat)

def State.clTable (s : State) : CodeTable := s.clLens.zip (s.clCode.toList.map (·.toNat))
def State.llTable (s : State) : CodeTable := s.llLens.zip (s.llCode.toList.map (·.toNat))
def State.dTable (s : State) : CodeTable := s.dLens.zip (s.dCode.toList.map (·.toNat))

/-! DECODE_SYM. -/

/-- The symbol whose codeword is `bits(wval, wlen)`, the trie's outcome `symbol(s)` (41_huffman_builder.md R130, R132). -/
def CodeTable.symbolOf (t : CodeTable) (wlen wval : Nat) : Option Nat :=
  t.findIdx? fun e => decide (e.1 = wlen ∧ e.2 = wval)

/-- `bits(wval, wlen)` is a proper prefix of some codeword, the trie's outcome `pending` (41_huffman_builder.md R130). -/
def CodeTable.pending (t : CodeTable) (wlen wval : Nat) : Bool :=
  t.any fun e => decide (wlen < e.1 ∧ e.2 >>> (e.1 - wlen) = wval)

/-- The loop of DECODE_SYM: one stream bit a turn, which becomes the rightmost character of the walk (41_huffman_builder.md
R130); CorruptHuffmanCode at the first bit after which nothing matches (R131). No codeword is longer than 15 bits, so 15 turns
decide every walk. -/
def walkSym (t : CodeTable) : Nat → State → Res Nat
  | 0, s => .raised (s.raise .corruptHuffmanCode)
  | turns + 1, s =>
    (readBits 1 s).bind fun b s =>
      match t.symbolOf (s.wlen + 1) (s.wval <<< 1 ||| b) with
      | some x => .ok x { s with wlen := 0, wval := 0 }
      | none =>
        if t.pending (s.wlen + 1) (s.wval <<< 1 ||| b) then
          walkSym t turns { s with wlen := s.wlen + 1, wval := s.wval <<< 1 ||| b }
        else
          .raised (State.raise .corruptHuffmanCode
            { s with wlen := s.wlen + 1, wval := s.wval <<< 1 ||| b })

/-- `DECODE_SYM(len, code)` (41_huffman_builder.md R130): the walk starts at the root for every symbol (70_reset_and_hazards.md
R250) and is empty again when the symbol is resolved (10_state.md R39). -/
def decodeSym (t : CodeTable) (s : State) : Res Nat :=
  walkSym t Config.codelenMax { s with wlen := 0, wval := 0 }

end Sys2Proof.Machine
end

