-- ==== Sys2Proof/Machine/Operands.lean ====
section
/-! DEFINITION. The constant tables (10_state.md R36) and every operand an element computes from its fields (30_encoding.md
R74). -/

namespace Sys2Proof.Machine

/-- `CL_ORDER`, the fixed permutation of the code-length slots (42_dynamic_header.md R142). -/
def clOrder : List Nat := [16, 17, 18, 0, 8, 7, 9, 6, 10, 5, 11, 4, 12, 3, 13, 2, 14, 1, 15]

/-- `LEN_EXTRA` and `LEN_BASE`, indexed by the length symbol less 257 (43_block_symbols.md R165). -/
def lenExtra : List Nat :=
  [0, 0, 0, 0, 0, 0, 0, 0, 1, 1, 1, 1, 2, 2, 2, 2, 3, 3, 3, 3, 4, 4, 4, 4, 5, 5, 5, 5, 0]
def lenBase : List Nat :=
  [3, 4, 5, 6, 7, 8, 9, 10, 11, 13, 15, 17, 19, 23, 27, 31, 35, 43, 51, 59, 67, 83, 99, 115, 131, 163, 195, 227, 258]

/-- `DIST_EXTRA` and `DIST_BASE`, indexed by the distance symbol (43_block_symbols.md R168). -/
def distExtra : List Nat :=
  [0, 0, 0, 0, 1, 1, 2, 2, 3, 3, 4, 4, 5, 5, 6, 6, 7, 7, 8, 8, 9, 9, 10, 10, 11, 11, 12, 12, 13, 13]
def distBase : List Nat :=
  [1, 2, 3, 4, 5, 7, 9, 13, 17, 25, 33, 49, 65, 97, 129, 193, 257, 385, 513, 769, 1025, 1537, 2049, 3073, 4097, 6145, 8193,
   12289, 16385, 24577]

/-- Width of the extra-bits field after a code-length symbol (30_encoding.md R76); 0 where there is none. -/
def clExtraWidth (sym : Nat) : Nat :=
  if sym = 16 then 2 else if sym = 17 then 3 else if sym = 18 then 7 else 0

/-- Width of the extra-bits field after a literal/length symbol (30_encoding.md R77); 0 where there is none. -/
def llExtraWidth (sym : Nat) : Nat :=
  if Config.lenSymLo ≤ sym then lenExtra.getD (sym - Config.lenSymLo) 0 else 0

/-- Width of the extra-bits field after a distance symbol (30_encoding.md R78); 0 where there is none. -/
def distExtraWidth (m : Nat) : Nat := distExtra.getD m 0

/-- `length = LEN_BASE[n - 257] + lextra` (30_encoding.md R74). -/
def matchLength (n lextra : Nat) : Nat := lenBase.getD (n - Config.lenSymLo) 0 + lextra

/-- `distance = DIST_BASE[m] + dextra` (30_encoding.md R74). -/
def matchDistance (m dextra : Nat) : Nat := distBase.getD m 0 + dextra

/-- Repeat counts of CL16 and CL17 (`3 + extra`) and of CL18 (`11 + extra`) (30_encoding.md R74). -/
def shortRun (extra : Nat) : Nat := 3 + extra
def longRun (extra : Nat) : Nat := 11 + extra

end Sys2Proof.Machine
end

