-- ==== Sys2Proof/Syntax.lean ====
section
/-! DEFINITION. The stream elements, one constructor for each row of spec/opcode_table.json (30_encoding.md R90). An operand has
exactly the width of its field, so that a term holds nothing an encoding could not. -/

namespace Sys2Proof

/-- A stream element: what 00_scope.md R6 calls an instruction. Operand fields are those of 30_encoding.md R71 and R74. -/
inductive Instr where
  /-- BLK (44_stream_control.md R193). -/
  | blk (bfinal : BitVec 1) (btype : BitVec 2)
  /-- The reserved block types stored, fixed-Huffman and 3 (R193, 30_encoding.md R79). -/
  | blkBtype0 (bfinal : BitVec 1)
  | blkBtype1 (bfinal : BitVec 1)
  | blkBtype3 (bfinal : BitVec 1)
  /-- HDR (42_dynamic_header.md R141). -/
  | hdr (hlit : BitVec 5) (hdist : BitVec 5) (hclen : BitVec 4)
  /-- CLLEN (42_dynamic_header.md R142). -/
  | cllen (v : BitVec 3)
  /-- The code-length alphabet (30_encoding.md R76, 42_dynamic_header.md R145 to R148). -/
  | cl0
  | cl1
  | cl2
  | cl3
  | cl4
  | cl5
  | cl6
  | cl7
  | cl8
  | cl9
  | cl10
  | cl11
  | cl12
  | cl13
  | cl14
  | cl15
  | cl16 (extra : BitVec 2)
  | cl17 (extra : BitVec 3)
  | cl18 (extra : BitVec 7)
  /-- The literal/length alphabet (30_encoding.md R77, 43_block_symbols.md R161 to R165). -/
  | lit (s : BitVec 8)
  | eob
  | len257
  | len258
  | len259
  | len260
  | len261
  | len262
  | len263
  | len264
  | len265 (lextra : BitVec 1)
  | len266 (lextra : BitVec 1)
  | len267 (lextra : BitVec 1)
  | len268 (lextra : BitVec 1)
  | len269 (lextra : BitVec 2)
  | len270 (lextra : BitVec 2)
  | len271 (lextra : BitVec 2)
  | len272 (lextra : BitVec 2)
  | len273 (lextra : BitVec 3)
  | len274 (lextra : BitVec 3)
  | len275 (lextra : BitVec 3)
  | len276 (lextra : BitVec 3)
  | len277 (lextra : BitVec 4)
  | len278 (lextra : BitVec 4)
  | len279 (lextra : BitVec 4)
  | len280 (lextra : BitVec 4)
  | len281 (lextra : BitVec 5)
  | len282 (lextra : BitVec 5)
  | len283 (lextra : BitVec 5)
  | len284 (lextra : BitVec 5)
  | len285
  /-- The reserved literal/length symbols (43_block_symbols.md R164). -/
  | ll286
  | ll287
  /-- The distance alphabet (30_encoding.md R78, 43_block_symbols.md R166, R168). -/
  | dist0
  | dist1
  | dist2
  | dist3
  | dist4 (dextra : BitVec 1)
  | dist5 (dextra : BitVec 1)
  | dist6 (dextra : BitVec 2)
  | dist7 (dextra : BitVec 2)
  | dist8 (dextra : BitVec 3)
  | dist9 (dextra : BitVec 3)
  | dist10 (dextra : BitVec 4)
  | dist11 (dextra : BitVec 4)
  | dist12 (dextra : BitVec 5)
  | dist13 (dextra : BitVec 5)
  | dist14 (dextra : BitVec 6)
  | dist15 (dextra : BitVec 6)
  | dist16 (dextra : BitVec 7)
  | dist17 (dextra : BitVec 7)
  | dist18 (dextra : BitVec 8)
  | dist19 (dextra : BitVec 8)
  | dist20 (dextra : BitVec 9)
  | dist21 (dextra : BitVec 9)
  | dist22 (dextra : BitVec 10)
  | dist23 (dextra : BitVec 10)
  | dist24 (dextra : BitVec 11)
  | dist25 (dextra : BitVec 11)
  | dist26 (dextra : BitVec 12)
  | dist27 (dextra : BitVec 12)
  | dist28 (dextra : BitVec 13)
  | dist29 (dextra : BitVec 13)
  /-- The reserved distance symbols (43_block_symbols.md R167). -/
  | d30
  | d31
deriving DecidableEq, Repr

/-- The three Huffman alphabets (00_scope.md R15): code lengths, literal/length, distance. -/
inductive Alphabet where
  | cl
  | ll
  | d
deriving DecidableEq, Repr

/-- How an element lies in the stream (30_encoding.md R71): integer fields only (each a width and a value, in stream order),
or the codeword of a symbol of an alphabet followed by one integer field of `w` bits holding `extra`. -/
inductive Layout where
  | fields (fs : List (Nat × Nat))
  | coded (a : Alphabet) (sym : Nat) (w : Nat) (extra : Nat)
deriving DecidableEq, Repr

end Sys2Proof
end

