-- ==== Sys2Proof/WellFormed.lean ====
section
/-! DEFINITION. Which terms of Instr are stream elements. Every operand but one has its field's exact width as its type; what is
left to check is that the row BLK stands for the accepted block type only, the other three being rows of their own. -/

namespace Sys2Proof

/-- `BLK` carries `btype` = 2, its one legal value (opcode_table.json "legal"; 44_stream_control.md R193). Every other
element admits every value its fields can hold (30_encoding.md R74, R79). -/
def Instr.wf : Instr → Bool
  | .blk _ btype => decide (btype = 2)
  | _ => true

end Sys2Proof
end

