-- ==== Sys2Proof/Decode.lean ====
section
/-! DEFINITION. Decoding: the element that stands at the bit position, read with the bit reader and the block's code tables in the
order the spec lists the reads (30_encoding.md). An element has no opcode field: the phase says which kind is read and a Huffman
symbol says which one it is (R75), so the decoder works on the state. It writes the BitCursor and the walk only; everything else an
element writes, its operand registers included, is `exec`'s (log 11). After it, the encoder. -/

namespace Sys2Proof

open Machine

/-! From a symbol and its extra bits to the element (30_encoding.md R76 to R78). -/

/-- BLK and its reserved forms, by `btype` (44_stream_control.md R193, 30_encoding.md R79). -/
def blkElement (f : BitVec 1) (t : BitVec 2) : Instr :=
  if t = 0 then .blkBtype0 f
  else if t = 1 then .blkBtype1 f
  else if t = 2 then .blk f t
  else .blkBtype3 f

/-- The element of a code-length symbol (30_encoding.md R76). -/
def clElement (sym extra : Nat) : Option Instr :=
  match sym with
  | 0 => some .cl0
  | 1 => some .cl1
  | 2 => some .cl2
  | 3 => some .cl3
  | 4 => some .cl4
  | 5 => some .cl5
  | 6 => some .cl6
  | 7 => some .cl7
  | 8 => some .cl8
  | 9 => some .cl9
  | 10 => some .cl10
  | 11 => some .cl11
  | 12 => some .cl12
  | 13 => some .cl13
  | 14 => some .cl14
  | 15 => some .cl15
  | 16 => some (.cl16 (BitVec.ofNat 2 extra))
  | 17 => some (.cl17 (BitVec.ofNat 3 extra))
  | 18 => some (.cl18 (BitVec.ofNat 7 extra))
  | _ => none

/-- The element of a length symbol `257 + i`, or of a reserved symbol above (30_encoding.md R77). -/
def lengthElement (i extra : Nat) : Option Instr :=
  match i with
  | 0 => some .len257
  | 1 => some .len258
  | 2 => some .len259
  | 3 => some .len260
  | 4 => some .len261
  | 5 => some .len262
  | 6 => some .len263
  | 7 => some .len264
  | 8 => some (.len265 (BitVec.ofNat 1 extra))
  | 9 => some (.len266 (BitVec.ofNat 1 extra))
  | 10 => some (.len267 (BitVec.ofNat 1 extra))
  | 11 => some (.len268 (BitVec.ofNat 1 extra))
  | 12 => some (.len269 (BitVec.ofNat 2 extra))
  | 13 => some (.len270 (BitVec.ofNat 2 extra))
  | 14 => some (.len271 (BitVec.ofNat 2 extra))
  | 15 => some (.len272 (BitVec.ofNat 2 extra))
  | 16 => some (.len273 (BitVec.ofNat 3 extra))
  | 17 => some (.len274 (BitVec.ofNat 3 extra))
  | 18 => some (.len275 (BitVec.ofNat 3 extra))
  | 19 => some (.len276 (BitVec.ofNat 3 extra))
  | 20 => some (.len277 (BitVec.ofNat 4 extra))
  | 21 => some (.len278 (BitVec.ofNat 4 extra))
  | 22 => some (.len279 (BitVec.ofNat 4 extra))
  | 23 => some (.len280 (BitVec.ofNat 4 extra))
  | 24 => some (.len281 (BitVec.ofNat 5 extra))
  | 25 => some (.len282 (BitVec.ofNat 5 extra))
  | 26 => some (.len283 (BitVec.ofNat 5 extra))
  | 27 => some (.len284 (BitVec.ofNat 5 extra))
  | 28 => some .len285
  | 29 => some .ll286
  | 30 => some .ll287
  | _ => none

/-- The element of a literal/length symbol (30_encoding.md R77). -/
def llElement (sym extra : Nat) : Option Instr :=
  if sym < Config.symEob then some (.lit (BitVec.ofNat 8 sym))
  else if sym = Config.symEob then some .eob
  else lengthElement (sym - Config.lenSymLo) extra

/-- The element of a distance symbol (30_encoding.md R78). -/
def distElement (m extra : Nat) : Option Instr :=
  match m with
  | 0 => some .dist0
  | 1 => some .dist1
  | 2 => some .dist2
  | 3 => some .dist3
  | 4 => some (.dist4 (BitVec.ofNat 1 extra))
  | 5 => some (.dist5 (BitVec.ofNat 1 extra))
  | 6 => some (.dist6 (BitVec.ofNat 2 extra))
  | 7 => some (.dist7 (BitVec.ofNat 2 extra))
  | 8 => some (.dist8 (BitVec.ofNat 3 extra))
  | 9 => some (.dist9 (BitVec.ofNat 3 extra))
  | 10 => some (.dist10 (BitVec.ofNat 4 extra))
  | 11 => some (.dist11 (BitVec.ofNat 4 extra))
  | 12 => some (.dist12 (BitVec.ofNat 5 extra))
  | 13 => some (.dist13 (BitVec.ofNat 5 extra))
  | 14 => some (.dist14 (BitVec.ofNat 6 extra))
  | 15 => some (.dist15 (BitVec.ofNat 6 extra))
  | 16 => some (.dist16 (BitVec.ofNat 7 extra))
  | 17 => some (.dist17 (BitVec.ofNat 7 extra))
  | 18 => some (.dist18 (BitVec.ofNat 8 extra))
  | 19 => some (.dist19 (BitVec.ofNat 8 extra))
  | 20 => some (.dist20 (BitVec.ofNat 9 extra))
  | 21 => some (.dist21 (BitVec.ofNat 9 extra))
  | 22 => some (.dist22 (BitVec.ofNat 10 extra))
  | 23 => some (.dist23 (BitVec.ofNat 10 extra))
  | 24 => some (.dist24 (BitVec.ofNat 11 extra))
  | 25 => some (.dist25 (BitVec.ofNat 11 extra))
  | 26 => some (.dist26 (BitVec.ofNat 12 extra))
  | 27 => some (.dist27 (BitVec.ofNat 12 extra))
  | 28 => some (.dist28 (BitVec.ofNat 13 extra))
  | 29 => some (.dist29 (BitVec.ofNat 13 extra))
  | 30 => some .d30
  | 31 => some .d31
  | _ => none

/-! Reading an element. -/

/-- The decoder's last line: the element, or a refusal by name where the alphabet has no such symbol. -/
def answer (i : Option Instr) (s : State) : Res Instr :=
  match i with
  | some i => .ok i s
  | none => .refuse .symbolOutsideAlphabet

/-- Format BH (44_stream_control.md R193). -/
def fetchBlk (s : State) : Res Instr :=
  (readBits 1 s).bind fun f s =>
    (readBits 2 s).bind fun t s => .ok (blkElement (BitVec.ofNat 1 f) (BitVec.ofNat 2 t)) s

/-- Format DH (42_dynamic_header.md R141). -/
def fetchHdr (s : State) : Res Instr :=
  (readBits 5 s).bind fun hlit s =>
    (readBits 5 s).bind fun hdist s =>
      (readBits 4 s).bind fun hclen s =>
        .ok (.hdr (BitVec.ofNat 5 hlit) (BitVec.ofNat 5 hdist) (BitVec.ofNat 4 hclen)) s

/-- Format CLL (42_dynamic_header.md R142). -/
def fetchCllen (s : State) : Res Instr :=
  (readBits 3 s).bind fun v s => .ok (.cllen (BitVec.ofNat 3 v)) s

/-- Format CLS (42_dynamic_header.md R144). CL16 with nothing to repeat fails before its extra bits are read (R146,
60_exceptions.md R221). -/
def fetchCl (s : State) : Res Instr :=
  (decodeSym s.clTable s).bind fun sym s =>
    if sym = 16 ∧ s.idx = 0 then .raised (s.raise .invalidRunLength)
    else (readBits (clExtraWidth sym) s).bind fun e s => answer (clElement sym e) s

/-- Format LLS, and format LD up to its length extra bits (43_block_symbols.md R160, R163). -/
def fetchLl (s : State) : Res Instr :=
  (decodeSym s.llTable s).bind fun sym s =>
    (readBits (llExtraWidth sym) s).bind fun e s => answer (llElement sym e) s

/-- The distance half of format LD, read directly after a length element's extra bits (43_block_symbols.md R163, R166). -/
def fetchDist (s : State) : Res Instr :=
  (decodeSym s.dTable s).bind fun m s =>
    (readBits (distExtraWidth m) s).bind fun e s => answer (distElement m e) s

/-- The element read in a phase (30_encoding.md R75). In the other phases no element is read. -/
def fetchElement (s : State) : Res Instr :=
  match s.phase with
  | .blockHdr => fetchBlk s
  | .dynCounts => fetchHdr s
  | .clLens => fetchCllen s
  | .clSyms => fetchCl s
  | .symbols => fetchLl s
  | .idle => .stop .noStepEnabled
  | .buildCl => .stop .noStepEnabled
  | .buildLd => .stop .noStepEnabled
  | .done => .stop .noStepEnabled
  | .fault => .stop .noStepEnabled

/-! A word of the opcode table, placed where the block reads. -/

/-- The `n` low bytes of `w`, least significant first: stream bit `k` of the bytes is bit `k` of `w` (20_memory.md R54). -/
def wordBytes : Nat → Nat → List Byte
  | 0, _ => []
  | n + 1, w => BitVec.ofNat 8 w :: wordBytes n (w / 256)

/-- The phase whose element is as long as the table's word. DESIGN CHOICE, safe: the table gives bits to the fixed formats only, and
a word of 9 to 16 bits is the one format of 14 bits, HDR; any other word is the element a session begins with, BLK (log 21). -/
def wordPhase (nbits : Nat) : Phase :=
  if 8 < nbits ∧ nbits ≤ 16 then .dynCounts else .blockHdr

/-- `s` about to read the word `w` of `nbits` bits, with zero bits after it for the longest element: the word is the whole source,
the session is running, the BitCursor is at its first bit and the phase is the word's (log 21). -/
def placeWord (s : State) (nbits w : Nat) : State :=
  let bytes := wordBytes ((nbits + 7) / 8 + Config.maxElementBits / 8) (w % 2 ^ nbits)
  { s with
    src := Memory.ofBytes bytes, srcLen := bytes.length, startPos := 0
    acc := 0, cnt := 0, pos := 0, wlen := 0, wval := 0
    status := .busy, err := none, phase := wordPhase nbits, hostCmd := none }

/-- The element the decoder reads from a word of the opcode table (log 21). -/
def decodeTableWord (nbits w : Nat) : Option Instr :=
  match fetchElement (placeWord State.reset nbits w) with
  | .ok i _ => some i
  | _ => none

/-! The encoder. -/

/-- The encoding column of spec/opcode_table.json: each element's format with its operands in place (30_encoding.md R71, R76
to R78). A literal has one row for all 256 symbols. -/
def Instr.layout : Instr → Layout
  | .blk f t => .fields [(1, f.toNat), (2, t.toNat)]
  | .blkBtype0 f => .fields [(1, f.toNat), (2, 0)]
  | .blkBtype1 f => .fields [(1, f.toNat), (2, 1)]
  | .blkBtype3 f => .fields [(1, f.toNat), (2, 3)]
  | .hdr hlit hdist hclen => .fields [(5, hlit.toNat), (5, hdist.toNat), (4, hclen.toNat)]
  | .cllen v => .fields [(3, v.toNat)]
  | .cl0 => .coded .cl 0 0 0
  | .cl1 => .coded .cl 1 0 0
  | .cl2 => .coded .cl 2 0 0
  | .cl3 => .coded .cl 3 0 0
  | .cl4 => .coded .cl 4 0 0
  | .cl5 => .coded .cl 5 0 0
  | .cl6 => .coded .cl 6 0 0
  | .cl7 => .coded .cl 7 0 0
  | .cl8 => .coded .cl 8 0 0
  | .cl9 => .coded .cl 9 0 0
  | .cl10 => .coded .cl 10 0 0
  | .cl11 => .coded .cl 11 0 0
  | .cl12 => .coded .cl 12 0 0
  | .cl13 => .coded .cl 13 0 0
  | .cl14 => .coded .cl 14 0 0
  | .cl15 => .coded .cl 15 0 0
  | .cl16 e => .coded .cl 16 2 e.toNat
  | .cl17 e => .coded .cl 17 3 e.toNat
  | .cl18 e => .coded .cl 18 7 e.toNat
  | .lit s => .coded .ll s.toNat 0 0
  | .eob => .coded .ll 256 0 0
  | .len257 => .coded .ll 257 0 0
  | .len258 => .coded .ll 258 0 0
  | .len259 => .coded .ll 259 0 0
  | .len260 => .coded .ll 260 0 0
  | .len261 => .coded .ll 261 0 0
  | .len262 => .coded .ll 262 0 0
  | .len263 => .coded .ll 263 0 0
  | .len264 => .coded .ll 264 0 0
  | .len265 e => .coded .ll 265 1 e.toNat
  | .len266 e => .coded .ll 266 1 e.toNat
  | .len267 e => .coded .ll 267 1 e.toNat
  | .len268 e => .coded .ll 268 1 e.toNat
  | .len269 e => .coded .ll 269 2 e.toNat
  | .len270 e => .coded .ll 270 2 e.toNat
  | .len271 e => .coded .ll 271 2 e.toNat
  | .len272 e => .coded .ll 272 2 e.toNat
  | .len273 e => .coded .ll 273 3 e.toNat
  | .len274 e => .coded .ll 274 3 e.toNat
  | .len275 e => .coded .ll 275 3 e.toNat
  | .len276 e => .coded .ll 276 3 e.toNat
  | .len277 e => .coded .ll 277 4 e.toNat
  | .len278 e => .coded .ll 278 4 e.toNat
  | .len279 e => .coded .ll 279 4 e.toNat
  | .len280 e => .coded .ll 280 4 e.toNat
  | .len281 e => .coded .ll 281 5 e.toNat
  | .len282 e => .coded .ll 282 5 e.toNat
  | .len283 e => .coded .ll 283 5 e.toNat
  | .len284 e => .coded .ll 284 5 e.toNat
  | .len285 => .coded .ll 285 0 0
  | .ll286 => .coded .ll 286 0 0
  | .ll287 => .coded .ll 287 0 0
  | .dist0 => .coded .d 0 0 0
  | .dist1 => .coded .d 1 0 0
  | .dist2 => .coded .d 2 0 0
  | .dist3 => .coded .d 3 0 0
  | .dist4 e => .coded .d 4 1 e.toNat
  | .dist5 e => .coded .d 5 1 e.toNat
  | .dist6 e => .coded .d 6 2 e.toNat
  | .dist7 e => .coded .d 7 2 e.toNat
  | .dist8 e => .coded .d 8 3 e.toNat
  | .dist9 e => .coded .d 9 3 e.toNat
  | .dist10 e => .coded .d 10 4 e.toNat
  | .dist11 e => .coded .d 11 4 e.toNat
  | .dist12 e => .coded .d 12 5 e.toNat
  | .dist13 e => .coded .d 13 5 e.toNat
  | .dist14 e => .coded .d 14 6 e.toNat
  | .dist15 e => .coded .d 15 6 e.toNat
  | .dist16 e => .coded .d 16 7 e.toNat
  | .dist17 e => .coded .d 17 7 e.toNat
  | .dist18 e => .coded .d 18 8 e.toNat
  | .dist19 e => .coded .d 19 8 e.toNat
  | .dist20 e => .coded .d 20 9 e.toNat
  | .dist21 e => .coded .d 21 9 e.toNat
  | .dist22 e => .coded .d 22 10 e.toNat
  | .dist23 e => .coded .d 23 10 e.toNat
  | .dist24 e => .coded .d 24 11 e.toNat
  | .dist25 e => .coded .d 25 11 e.toNat
  | .dist26 e => .coded .d 26 12 e.toNat
  | .dist27 e => .coded .d 27 12 e.toNat
  | .dist28 e => .coded .d 28 13 e.toNat
  | .dist29 e => .coded .d 29 13 e.toNat
  | .d30 => .coded .d 30 0 0
  | .d31 => .coded .d 31 0 0

/-- The element is the length half of a back-reference, LEN257 to LEN285, which a distance element follows
(30_encoding.md R75, 43_block_symbols.md R163). -/
def Instr.isLength (i : Instr) : Bool :=
  match i.layout with
  | .coded .ll n _ _ => decide (Config.lenSymLo ≤ n ∧ n ≤ Config.lenSymHi)
  | _ => false

/-- The element is the distance half of a back-reference (30_encoding.md R75). -/
def Instr.isDistance (i : Instr) : Bool :=
  match i.layout with
  | .coded .d _ _ _ => true
  | _ => false

/-- The phase in which an element is read (30_encoding.md R75); the fixed formats BH, DH and CLL have two, three and one fields. -/
def Instr.phase (i : Instr) : Phase :=
  match i.layout with
  | .fields [_, _] => .blockHdr
  | .fields [_, _, _] => .dynCounts
  | .fields _ => .clLens
  | .coded .cl _ _ _ => .clSyms
  | .coded .ll _ _ _ => .symbols
  | .coded .d _ _ _ => .symbols

/-- An integer field: `w` stream bits, bit 0 of the value first (30_encoding.md R71, 20_memory.md R55(a)). -/
def fieldBits (w v : Nat) : List Bool := (List.range w).map v.testBit

/-- A codeword: `bits(code, len)`, leftmost character first (30_encoding.md R71, R73, 20_memory.md R55(b)). -/
def codewordBits (len code : Nat) : List Bool := (List.range len).map fun j => code.testBit (len - 1 - j)

/-- The codeword of a symbol in a table; none for a symbol without one (41_huffman_builder.md R124). -/
def codeword (t : CodeTable) (sym : Nat) : Option (List Bool) :=
  match t[sym]? with
  | none => none
  | some e => if e.1 = 0 then none else some (codewordBits e.1 e.2)

/-- The code table of an alphabet in the current block. -/
def tableOf (s : State) : Alphabet → CodeTable
  | .cl => s.clTable
  | .ll => s.llTable
  | .d => s.dTable

/-- The stream bits of an element under the block's current code tables, in stream order (30_encoding.md R71); none where its
symbol has no codeword in them. -/
def encode (s : State) (i : Instr) : Option (List Bool) :=
  match i.layout with
  | .fields fs => some (fs.flatMap fun f => fieldBits f.1 f.2)
  | .coded a sym w extra =>
    match codeword (tableOf s a) sym with
    | none => none
    | some c => some (c ++ fieldBits w extra)

end Sys2Proof
end

