-- ==== Sys2Proof/Machine/Block.lean ====
section
/-! DEFINITION. The BlockDecoder: LIT, EOB, LEN257 to LEN285, DIST0 to DIST29, the reserved symbols and the copy
(43_block_symbols.md). The only family that writes OUT. -/

namespace Sys2Proof.Machine

/-- LIT: the byte is appended, or OutputCapacityExceeded where a finite `OUT_CAP` is reached (43_block_symbols.md R161, R173). -/
def execLit (b : BitVec 8) (s : State) : Host.Outcome State Fault Refusal :=
  let s := { s with sym := b.toNat }
  if s.overCap 1 then .next (s.raise .outputCapacityExceeded) else .next (s.append b)

/-- EOB: DONE after the block whose `bfinal` is 1, the next block header otherwise (43_block_symbols.md R162, 44_stream_control.md
R196). -/
def execEob (s : State) : Host.Outcome State Fault Refusal :=
  let s := { s with sym := Config.symEob }
  if s.bfinal = 1 then .next { s with phase := .done, status := .done }
  else .next { s with phase := .blockHdr }

/-- The length half of a back-reference: `length = LEN_BASE + lextra` (43_block_symbols.md R163, R165). The distance half follows
in the same step (Sequencer.lean, log 12). -/
def lengthHalf (n lextra : Nat) (s : State) : Host.Outcome State Fault Refusal :=
  .next { s with sym := n, extra := lextra, length := matchLength n lextra }

/-- The distance half of a back-reference: `distance = DIST_BASE + dextra`, then InvalidDistance, then OutputCapacityExceeded, then
the copy of `length` bytes (43_block_symbols.md R163, R166, R170, R171, R173; 60_exceptions.md R221). -/
def distanceHalf (m dextra : Nat) (s : State) : Host.Outcome State Fault Refusal :=
  let s := { s with dsym := m, extra := dextra, distance := matchDistance m dextra }
  if s.olen < s.distance then .next (s.raise .invalidDistance)
  else if s.overCap s.length then .next (s.raise .outputCapacityExceeded)
  else (copy s.length s.distance s).finish fun _ s => .next s

/-- A reserved literal/length symbol: InvalidSymbol, OUT not written (43_block_symbols.md R164). -/
def reservedLl (n : Nat) (s : State) : Host.Outcome State Fault Refusal :=
  .next (State.raise .invalidSymbol { s with sym := n })

/-- A reserved distance symbol: InvalidSymbol, OUT not written (43_block_symbols.md R167). -/
def reservedDist (m : Nat) (s : State) : Host.Outcome State Fault Refusal :=
  .next (State.raise .invalidSymbol { s with dsym := m })

/-- LEN257, no extra bits (43_block_symbols.md R163, R165). -/
def execLen257 (s : State) : Host.Outcome State Fault Refusal := lengthHalf 257 0 s

/-- LEN258, no extra bits (43_block_symbols.md R163, R165). -/
def execLen258 (s : State) : Host.Outcome State Fault Refusal := lengthHalf 258 0 s

/-- LEN259, no extra bits (43_block_symbols.md R163, R165). -/
def execLen259 (s : State) : Host.Outcome State Fault Refusal := lengthHalf 259 0 s

/-- LEN260, no extra bits (43_block_symbols.md R163, R165). -/
def execLen260 (s : State) : Host.Outcome State Fault Refusal := lengthHalf 260 0 s

/-- LEN261, no extra bits (43_block_symbols.md R163, R165). -/
def execLen261 (s : State) : Host.Outcome State Fault Refusal := lengthHalf 261 0 s

/-- LEN262, no extra bits (43_block_symbols.md R163, R165). -/
def execLen262 (s : State) : Host.Outcome State Fault Refusal := lengthHalf 262 0 s

/-- LEN263, no extra bits (43_block_symbols.md R163, R165). -/
def execLen263 (s : State) : Host.Outcome State Fault Refusal := lengthHalf 263 0 s

/-- LEN264, no extra bits (43_block_symbols.md R163, R165). -/
def execLen264 (s : State) : Host.Outcome State Fault Refusal := lengthHalf 264 0 s

/-- LEN265, 1 extra bit (43_block_symbols.md R163, R165). -/
def execLen265 (lextra : BitVec 1) (s : State) : Host.Outcome State Fault Refusal := lengthHalf 265 lextra.toNat s

/-- LEN266, 1 extra bit (43_block_symbols.md R163, R165). -/
def execLen266 (lextra : BitVec 1) (s : State) : Host.Outcome State Fault Refusal := lengthHalf 266 lextra.toNat s

/-- LEN267, 1 extra bit (43_block_symbols.md R163, R165). -/
def execLen267 (lextra : BitVec 1) (s : State) : Host.Outcome State Fault Refusal := lengthHalf 267 lextra.toNat s

/-- LEN268, 1 extra bit (43_block_symbols.md R163, R165). -/
def execLen268 (lextra : BitVec 1) (s : State) : Host.Outcome State Fault Refusal := lengthHalf 268 lextra.toNat s

/-- LEN269, 2 extra bits (43_block_symbols.md R163, R165). -/
def execLen269 (lextra : BitVec 2) (s : State) : Host.Outcome State Fault Refusal := lengthHalf 269 lextra.toNat s

/-- LEN270, 2 extra bits (43_block_symbols.md R163, R165). -/
def execLen270 (lextra : BitVec 2) (s : State) : Host.Outcome State Fault Refusal := lengthHalf 270 lextra.toNat s

/-- LEN271, 2 extra bits (43_block_symbols.md R163, R165). -/
def execLen271 (lextra : BitVec 2) (s : State) : Host.Outcome State Fault Refusal := lengthHalf 271 lextra.toNat s

/-- LEN272, 2 extra bits (43_block_symbols.md R163, R165). -/
def execLen272 (lextra : BitVec 2) (s : State) : Host.Outcome State Fault Refusal := lengthHalf 272 lextra.toNat s

/-- LEN273, 3 extra bits (43_block_symbols.md R163, R165). -/
def execLen273 (lextra : BitVec 3) (s : State) : Host.Outcome State Fault Refusal := lengthHalf 273 lextra.toNat s

/-- LEN274, 3 extra bits (43_block_symbols.md R163, R165). -/
def execLen274 (lextra : BitVec 3) (s : State) : Host.Outcome State Fault Refusal := lengthHalf 274 lextra.toNat s

/-- LEN275, 3 extra bits (43_block_symbols.md R163, R165). -/
def execLen275 (lextra : BitVec 3) (s : State) : Host.Outcome State Fault Refusal := lengthHalf 275 lextra.toNat s

/-- LEN276, 3 extra bits (43_block_symbols.md R163, R165). -/
def execLen276 (lextra : BitVec 3) (s : State) : Host.Outcome State Fault Refusal := lengthHalf 276 lextra.toNat s

/-- LEN277, 4 extra bits (43_block_symbols.md R163, R165). -/
def execLen277 (lextra : BitVec 4) (s : State) : Host.Outcome State Fault Refusal := lengthHalf 277 lextra.toNat s

/-- LEN278, 4 extra bits (43_block_symbols.md R163, R165). -/
def execLen278 (lextra : BitVec 4) (s : State) : Host.Outcome State Fault Refusal := lengthHalf 278 lextra.toNat s

/-- LEN279, 4 extra bits (43_block_symbols.md R163, R165). -/
def execLen279 (lextra : BitVec 4) (s : State) : Host.Outcome State Fault Refusal := lengthHalf 279 lextra.toNat s

/-- LEN280, 4 extra bits (43_block_symbols.md R163, R165). -/
def execLen280 (lextra : BitVec 4) (s : State) : Host.Outcome State Fault Refusal := lengthHalf 280 lextra.toNat s

/-- LEN281, 5 extra bits (43_block_symbols.md R163, R165). -/
def execLen281 (lextra : BitVec 5) (s : State) : Host.Outcome State Fault Refusal := lengthHalf 281 lextra.toNat s

/-- LEN282, 5 extra bits (43_block_symbols.md R163, R165). -/
def execLen282 (lextra : BitVec 5) (s : State) : Host.Outcome State Fault Refusal := lengthHalf 282 lextra.toNat s

/-- LEN283, 5 extra bits (43_block_symbols.md R163, R165). -/
def execLen283 (lextra : BitVec 5) (s : State) : Host.Outcome State Fault Refusal := lengthHalf 283 lextra.toNat s

/-- LEN284, 5 extra bits (43_block_symbols.md R163, R165). -/
def execLen284 (lextra : BitVec 5) (s : State) : Host.Outcome State Fault Refusal := lengthHalf 284 lextra.toNat s

/-- LEN285, no extra bits (43_block_symbols.md R163, R165). -/
def execLen285 (s : State) : Host.Outcome State Fault Refusal := lengthHalf 285 0 s

/-- LL286 (43_block_symbols.md R164). -/
def execLl286 (s : State) : Host.Outcome State Fault Refusal := reservedLl 286 s

/-- LL287 (43_block_symbols.md R164). -/
def execLl287 (s : State) : Host.Outcome State Fault Refusal := reservedLl 287 s

/-- DIST0, no extra bits (43_block_symbols.md R166, R168). -/
def execDist0 (s : State) : Host.Outcome State Fault Refusal := distanceHalf 0 0 s

/-- DIST1, no extra bits (43_block_symbols.md R166, R168). -/
def execDist1 (s : State) : Host.Outcome State Fault Refusal := distanceHalf 1 0 s

/-- DIST2, no extra bits (43_block_symbols.md R166, R168). -/
def execDist2 (s : State) : Host.Outcome State Fault Refusal := distanceHalf 2 0 s

/-- DIST3, no extra bits (43_block_symbols.md R166, R168). -/
def execDist3 (s : State) : Host.Outcome State Fault Refusal := distanceHalf 3 0 s

/-- DIST4, 1 extra bit (43_block_symbols.md R166, R168). -/
def execDist4 (dextra : BitVec 1) (s : State) : Host.Outcome State Fault Refusal := distanceHalf 4 dextra.toNat s

/-- DIST5, 1 extra bit (43_block_symbols.md R166, R168). -/
def execDist5 (dextra : BitVec 1) (s : State) : Host.Outcome State Fault Refusal := distanceHalf 5 dextra.toNat s

/-- DIST6, 2 extra bits (43_block_symbols.md R166, R168). -/
def execDist6 (dextra : BitVec 2) (s : State) : Host.Outcome State Fault Refusal := distanceHalf 6 dextra.toNat s

/-- DIST7, 2 extra bits (43_block_symbols.md R166, R168). -/
def execDist7 (dextra : BitVec 2) (s : State) : Host.Outcome State Fault Refusal := distanceHalf 7 dextra.toNat s

/-- DIST8, 3 extra bits (43_block_symbols.md R166, R168). -/
def execDist8 (dextra : BitVec 3) (s : State) : Host.Outcome State Fault Refusal := distanceHalf 8 dextra.toNat s

/-- DIST9, 3 extra bits (43_block_symbols.md R166, R168). -/
def execDist9 (dextra : BitVec 3) (s : State) : Host.Outcome State Fault Refusal := distanceHalf 9 dextra.toNat s

/-- DIST10, 4 extra bits (43_block_symbols.md R166, R168). -/
def execDist10 (dextra : BitVec 4) (s : State) : Host.Outcome State Fault Refusal := distanceHalf 10 dextra.toNat s

/-- DIST11, 4 extra bits (43_block_symbols.md R166, R168). -/
def execDist11 (dextra : BitVec 4) (s : State) : Host.Outcome State Fault Refusal := distanceHalf 11 dextra.toNat s

/-- DIST12, 5 extra bits (43_block_symbols.md R166, R168). -/
def execDist12 (dextra : BitVec 5) (s : State) : Host.Outcome State Fault Refusal := distanceHalf 12 dextra.toNat s

/-- DIST13, 5 extra bits (43_block_symbols.md R166, R168). -/
def execDist13 (dextra : BitVec 5) (s : State) : Host.Outcome State Fault Refusal := distanceHalf 13 dextra.toNat s

/-- DIST14, 6 extra bits (43_block_symbols.md R166, R168). -/
def execDist14 (dextra : BitVec 6) (s : State) : Host.Outcome State Fault Refusal := distanceHalf 14 dextra.toNat s

/-- DIST15, 6 extra bits (43_block_symbols.md R166, R168). -/
def execDist15 (dextra : BitVec 6) (s : State) : Host.Outcome State Fault Refusal := distanceHalf 15 dextra.toNat s

/-- DIST16, 7 extra bits (43_block_symbols.md R166, R168). -/
def execDist16 (dextra : BitVec 7) (s : State) : Host.Outcome State Fault Refusal := distanceHalf 16 dextra.toNat s

/-- DIST17, 7 extra bits (43_block_symbols.md R166, R168). -/
def execDist17 (dextra : BitVec 7) (s : State) : Host.Outcome State Fault Refusal := distanceHalf 17 dextra.toNat s

/-- DIST18, 8 extra bits (43_block_symbols.md R166, R168). -/
def execDist18 (dextra : BitVec 8) (s : State) : Host.Outcome State Fault Refusal := distanceHalf 18 dextra.toNat s

/-- DIST19, 8 extra bits (43_block_symbols.md R166, R168). -/
def execDist19 (dextra : BitVec 8) (s : State) : Host.Outcome State Fault Refusal := distanceHalf 19 dextra.toNat s

/-- DIST20, 9 extra bits (43_block_symbols.md R166, R168). -/
def execDist20 (dextra : BitVec 9) (s : State) : Host.Outcome State Fault Refusal := distanceHalf 20 dextra.toNat s

/-- DIST21, 9 extra bits (43_block_symbols.md R166, R168). -/
def execDist21 (dextra : BitVec 9) (s : State) : Host.Outcome State Fault Refusal := distanceHalf 21 dextra.toNat s

/-- DIST22, 10 extra bits (43_block_symbols.md R166, R168). -/
def execDist22 (dextra : BitVec 10) (s : State) : Host.Outcome State Fault Refusal := distanceHalf 22 dextra.toNat s

/-- DIST23, 10 extra bits (43_block_symbols.md R166, R168). -/
def execDist23 (dextra : BitVec 10) (s : State) : Host.Outcome State Fault Refusal := distanceHalf 23 dextra.toNat s

/-- DIST24, 11 extra bits (43_block_symbols.md R166, R168). -/
def execDist24 (dextra : BitVec 11) (s : State) : Host.Outcome State Fault Refusal := distanceHalf 24 dextra.toNat s

/-- DIST25, 11 extra bits (43_block_symbols.md R166, R168). -/
def execDist25 (dextra : BitVec 11) (s : State) : Host.Outcome State Fault Refusal := distanceHalf 25 dextra.toNat s

/-- DIST26, 12 extra bits (43_block_symbols.md R166, R168). -/
def execDist26 (dextra : BitVec 12) (s : State) : Host.Outcome State Fault Refusal := distanceHalf 26 dextra.toNat s

/-- DIST27, 12 extra bits (43_block_symbols.md R166, R168). -/
def execDist27 (dextra : BitVec 12) (s : State) : Host.Outcome State Fault Refusal := distanceHalf 27 dextra.toNat s

/-- DIST28, 13 extra bits (43_block_symbols.md R166, R168). -/
def execDist28 (dextra : BitVec 13) (s : State) : Host.Outcome State Fault Refusal := distanceHalf 28 dextra.toNat s

/-- DIST29, 13 extra bits (43_block_symbols.md R166, R168). -/
def execDist29 (dextra : BitVec 13) (s : State) : Host.Outcome State Fault Refusal := distanceHalf 29 dextra.toNat s

/-- D30 (43_block_symbols.md R167). -/
def execD30 (s : State) : Host.Outcome State Fault Refusal := reservedDist 30 s

/-- D31 (43_block_symbols.md R167). -/
def execD31 (s : State) : Host.Outcome State Fault Refusal := reservedDist 31 s

end Sys2Proof.Machine
end

