-- ==== Sys2Proof/Machine/Header.lean ====
section
/-! DEFINITION. The DynamicHeaderDecoder: HDR, CLLEN, CL0 to CL18 and the two table builds (42_dynamic_header.md). No element of
this family writes OUT. -/

namespace Sys2Proof.Machine

/-- HDR: the three counts are latched, `cl_len` is zeroed and `cli` restarted (42_dynamic_header.md R141, 70_reset_and_hazards.md
R249). -/
def execHdr (hlit hdist : BitVec 5) (hclen : BitVec 4) (s : State) : Host.Outcome State Fault Refusal :=
  .next { s with
    hlit := hlit, hdist := hdist, hclen := hclen
    clLen := Vector.replicate 19 0, cli := 0, phase := .clLens }

/-- CLLEN: the value goes to the slot `CL_ORDER` names; after the `hclen + 4`-th the code is built (42_dynamic_header.md R142). -/
def execCllen (v : BitVec 3) (s : State) : Host.Outcome State Fault Refusal :=
  match clOrder[s.cli]? with
  | none => .fault .clOrderRange
  | some slot =>
    .next { s with
      clLen := s.clLen.setIfInBounds slot v
      cli := s.cli + 1
      phase := if s.cli + 1 = s.ncl then .buildCl else s.phase }

/-- The last line of the CLSYM frame: a full combined array leaves the phase (42_dynamic_header.md R144, R149). -/
def clSymEnd (s : State) : State :=
  if s.idx = s.total then { s with phase := .buildLd } else s

/-- CL0 to CL15: the length `s` at the current output position (42_dynamic_header.md R145). -/
def clLiteral (v : BitVec 4) (s : State) : Host.Outcome State Fault Refusal :=
  if s.idx < 320 then
    .next (clSymEnd { s with sym := v.toNat, lens := s.lens.setIfInBounds s.idx v, idx := s.idx + 1 })
  else .fault .lensRange

/-- `n` entries of the combined array from `i` on take the value `v` (42_dynamic_header.md R146 to R148). -/
def fillLens (v : BitVec 4) : Nat → Nat → Vector (BitVec 4) 320 → Vector (BitVec 4) 320
  | 0, _, lens => lens
  | n + 1, i, lens => fillLens v n (i + 1) (lens.setIfInBounds i v)

/-- A run of `rep` entries of value `v`: InvalidRunLength where it would pass `total`, before anything is written
(42_dynamic_header.md R146 to R148, 60_exceptions.md R221). -/
def clRun (rep : Nat) (v : BitVec 4) (s : State) : Host.Outcome State Fault Refusal :=
  let s := { s with rep := rep }
  if s.total < s.idx + rep then .next (s.raise .invalidRunLength)
  else .next (clSymEnd { s with lens := fillLens v rep s.idx s.lens, idx := s.idx + rep })

/-- `lens[i]`. -/
def State.lensAt (s : State) (i : Nat) : BitVec 4 := s.lens.toList.getD i 0

/-- CL0 (42_dynamic_header.md R145). -/
def execCl0 (s : State) : Host.Outcome State Fault Refusal := clLiteral 0 s

/-- CL1 (42_dynamic_header.md R145). -/
def execCl1 (s : State) : Host.Outcome State Fault Refusal := clLiteral 1 s

/-- CL2 (42_dynamic_header.md R145). -/
def execCl2 (s : State) : Host.Outcome State Fault Refusal := clLiteral 2 s

/-- CL3 (42_dynamic_header.md R145). -/
def execCl3 (s : State) : Host.Outcome State Fault Refusal := clLiteral 3 s

/-- CL4 (42_dynamic_header.md R145). -/
def execCl4 (s : State) : Host.Outcome State Fault Refusal := clLiteral 4 s

/-- CL5 (42_dynamic_header.md R145). -/
def execCl5 (s : State) : Host.Outcome State Fault Refusal := clLiteral 5 s

/-- CL6 (42_dynamic_header.md R145). -/
def execCl6 (s : State) : Host.Outcome State Fault Refusal := clLiteral 6 s

/-- CL7 (42_dynamic_header.md R145). -/
def execCl7 (s : State) : Host.Outcome State Fault Refusal := clLiteral 7 s

/-- CL8 (42_dynamic_header.md R145). -/
def execCl8 (s : State) : Host.Outcome State Fault Refusal := clLiteral 8 s

/-- CL9 (42_dynamic_header.md R145). -/
def execCl9 (s : State) : Host.Outcome State Fault Refusal := clLiteral 9 s

/-- CL10 (42_dynamic_header.md R145). -/
def execCl10 (s : State) : Host.Outcome State Fault Refusal := clLiteral 10 s

/-- CL11 (42_dynamic_header.md R145). -/
def execCl11 (s : State) : Host.Outcome State Fault Refusal := clLiteral 11 s

/-- CL12 (42_dynamic_header.md R145). -/
def execCl12 (s : State) : Host.Outcome State Fault Refusal := clLiteral 12 s

/-- CL13 (42_dynamic_header.md R145). -/
def execCl13 (s : State) : Host.Outcome State Fault Refusal := clLiteral 13 s

/-- CL14 (42_dynamic_header.md R145). -/
def execCl14 (s : State) : Host.Outcome State Fault Refusal := clLiteral 14 s

/-- CL15 (42_dynamic_header.md R145). -/
def execCl15 (s : State) : Host.Outcome State Fault Refusal := clLiteral 15 s

/-- CL16: the last written length again, `3 + extra` times; InvalidRunLength where no length has been written
(42_dynamic_header.md R146). -/
def execCl16 (extra : BitVec 2) (s : State) : Host.Outcome State Fault Refusal :=
  let s := { s with sym := 16 }
  if s.idx = 0 then .next (s.raise .invalidRunLength)
  else clRun (shortRun extra.toNat) (s.lensAt (s.idx - 1)) { s with extra := extra.toNat }

/-- CL17: zero, `3 + extra` times (42_dynamic_header.md R147). -/
def execCl17 (extra : BitVec 3) (s : State) : Host.Outcome State Fault Refusal :=
  clRun (shortRun extra.toNat) 0 { s with sym := 17, extra := extra.toNat }

/-- CL18: zero, `11 + extra` times (42_dynamic_header.md R148). -/
def execCl18 (extra : BitVec 7) (s : State) : Host.Outcome State Fault Refusal :=
  clRun (longRun extra.toNat) 0 { s with sym := 18, extra := extra.toNat }

/-- BUILD_CL, which reads no stream bit (42_dynamic_header.md R143). -/
def buildCl (s : State) : Host.Outcome State Fault Refusal :=
  (build s.clLens s).finish fun codes s =>
    .next { s with clCode := storeCodes s.clCode codes, idx := 0, phase := .clSyms }

/-- BUILD_LD, which reads no stream bit: the literal/length code first, then the distance code (42_dynamic_header.md R150). -/
def buildLd (s : State) : Host.Outcome State Fault Refusal :=
  (build s.llLens s).finish fun ll s =>
    let s := { s with llCode := storeCodes s.llCode ll }
    (build s.dLens s).finish fun d s =>
      .next { s with dCode := storeCodes s.dCode d, phase := .symbols }

end Sys2Proof.Machine
end

