-- ==== Sys2Proof/Machine/Stream.lean ====
section
/-! DEFINITION. The block header element of the StreamDecoder: BLK and its reserved forms (44_stream_control.md R193). -/

namespace Sys2Proof.Machine

/-- The block header is latched; any `btype` but 2 is UnsupportedBlockType, whatever `bfinal` is (44_stream_control.md R193). -/
def blockHeader (bfinal : BitVec 1) (btype : BitVec 2) (s : State) : Host.Outcome State Fault Refusal :=
  let s := { s with bfinal := bfinal, btype := btype }
  if s.btype = Config.btypeDynamic then .next { s with phase := .dynCounts }
  else .next (s.raise .unsupportedBlockType)

/-- BLK (44_stream_control.md R193). -/
def execBlk (bfinal : BitVec 1) (btype : BitVec 2) (s : State) : Host.Outcome State Fault Refusal :=
  blockHeader bfinal btype s

/-- BLK.BTYPE0, a stored block (30_encoding.md R79). -/
def execBlkBtype0 (bfinal : BitVec 1) (s : State) : Host.Outcome State Fault Refusal := blockHeader bfinal 0 s

/-- BLK.BTYPE1, a fixed-Huffman block (30_encoding.md R79). -/
def execBlkBtype1 (bfinal : BitVec 1) (s : State) : Host.Outcome State Fault Refusal := blockHeader bfinal 1 s

/-- BLK.BTYPE3 (30_encoding.md R79, 90_conflicts.md C9). -/
def execBlkBtype3 (bfinal : BitVec 1) (s : State) : Host.Outcome State Fault Refusal := blockHeader bfinal 3 s

end Sys2Proof.Machine
end

