-- ==== Sys2Proof/Machine/Dispatch.lean ====
section
/-! DEFINITION. One arm per stream element. -/

namespace Sys2Proof.Machine

def exec (i : Instr) (s : State) : Host.Outcome State Fault Refusal :=
  match i with
  | .blk bfinal btype => Sys2Proof.Machine.execBlk bfinal btype s
  | .blkBtype0 bfinal => Sys2Proof.Machine.execBlkBtype0 bfinal s
  | .blkBtype1 bfinal => Sys2Proof.Machine.execBlkBtype1 bfinal s
  | .blkBtype3 bfinal => Sys2Proof.Machine.execBlkBtype3 bfinal s
  | .hdr hlit hdist hclen => Sys2Proof.Machine.execHdr hlit hdist hclen s
  | .cllen v => Sys2Proof.Machine.execCllen v s
  | .cl0 => Sys2Proof.Machine.execCl0 s
  | .cl1 => Sys2Proof.Machine.execCl1 s
  | .cl2 => Sys2Proof.Machine.execCl2 s
  | .cl3 => Sys2Proof.Machine.execCl3 s
  | .cl4 => Sys2Proof.Machine.execCl4 s
  | .cl5 => Sys2Proof.Machine.execCl5 s
  | .cl6 => Sys2Proof.Machine.execCl6 s
  | .cl7 => Sys2Proof.Machine.execCl7 s
  | .cl8 => Sys2Proof.Machine.execCl8 s
  | .cl9 => Sys2Proof.Machine.execCl9 s
  | .cl10 => Sys2Proof.Machine.execCl10 s
  | .cl11 => Sys2Proof.Machine.execCl11 s
  | .cl12 => Sys2Proof.Machine.execCl12 s
  | .cl13 => Sys2Proof.Machine.execCl13 s
  | .cl14 => Sys2Proof.Machine.execCl14 s
  | .cl15 => Sys2Proof.Machine.execCl15 s
  | .cl16 extra => Sys2Proof.Machine.execCl16 extra s
  | .cl17 extra => Sys2Proof.Machine.execCl17 extra s
  | .cl18 extra => Sys2Proof.Machine.execCl18 extra s
  | .lit b => Sys2Proof.Machine.execLit b s
  | .eob => Sys2Proof.Machine.execEob s
  | .len257 => Sys2Proof.Machine.execLen257 s
  | .len258 => Sys2Proof.Machine.execLen258 s
  | .len259 => Sys2Proof.Machine.execLen259 s
  | .len260 => Sys2Proof.Machine.execLen260 s
  | .len261 => Sys2Proof.Machine.execLen261 s
  | .len262 => Sys2Proof.Machine.execLen262 s
  | .len263 => Sys2Proof.Machine.execLen263 s
  | .len264 => Sys2Proof.Machine.execLen264 s
  | .len265 lextra => Sys2Proof.Machine.execLen265 lextra s
  | .len266 lextra => Sys2Proof.Machine.execLen266 lextra s
  | .len267 lextra => Sys2Proof.Machine.execLen267 lextra s
  | .len268 lextra => Sys2Proof.Machine.execLen268 lextra s
  | .len269 lextra => Sys2Proof.Machine.execLen269 lextra s
  | .len270 lextra => Sys2Proof.Machine.execLen270 lextra s
  | .len271 lextra => Sys2Proof.Machine.execLen271 lextra s
  | .len272 lextra => Sys2Proof.Machine.execLen272 lextra s
  | .len273 lextra => Sys2Proof.Machine.execLen273 lextra s
  | .len274 lextra => Sys2Proof.Machine.execLen274 lextra s
  | .len275 lextra => Sys2Proof.Machine.execLen275 lextra s
  | .len276 lextra => Sys2Proof.Machine.execLen276 lextra s
  | .len277 lextra => Sys2Proof.Machine.execLen277 lextra s
  | .len278 lextra => Sys2Proof.Machine.execLen278 lextra s
  | .len279 lextra => Sys2Proof.Machine.execLen279 lextra s
  | .len280 lextra => Sys2Proof.Machine.execLen280 lextra s
  | .len281 lextra => Sys2Proof.Machine.execLen281 lextra s
  | .len282 lextra => Sys2Proof.Machine.execLen282 lextra s
  | .len283 lextra => Sys2Proof.Machine.execLen283 lextra s
  | .len284 lextra => Sys2Proof.Machine.execLen284 lextra s
  | .len285 => Sys2Proof.Machine.execLen285 s
  | .ll286 => Sys2Proof.Machine.execLl286 s
  | .ll287 => Sys2Proof.Machine.execLl287 s
  | .dist0 => Sys2Proof.Machine.execDist0 s
  | .dist1 => Sys2Proof.Machine.execDist1 s
  | .dist2 => Sys2Proof.Machine.execDist2 s
  | .dist3 => Sys2Proof.Machine.execDist3 s
  | .dist4 dextra => Sys2Proof.Machine.execDist4 dextra s
  | .dist5 dextra => Sys2Proof.Machine.execDist5 dextra s
  | .dist6 dextra => Sys2Proof.Machine.execDist6 dextra s
  | .dist7 dextra => Sys2Proof.Machine.execDist7 dextra s
  | .dist8 dextra => Sys2Proof.Machine.execDist8 dextra s
  | .dist9 dextra => Sys2Proof.Machine.execDist9 dextra s
  | .dist10 dextra => Sys2Proof.Machine.execDist10 dextra s
  | .dist11 dextra => Sys2Proof.Machine.execDist11 dextra s
  | .dist12 dextra => Sys2Proof.Machine.execDist12 dextra s
  | .dist13 dextra => Sys2Proof.Machine.execDist13 dextra s
  | .dist14 dextra => Sys2Proof.Machine.execDist14 dextra s
  | .dist15 dextra => Sys2Proof.Machine.execDist15 dextra s
  | .dist16 dextra => Sys2Proof.Machine.execDist16 dextra s
  | .dist17 dextra => Sys2Proof.Machine.execDist17 dextra s
  | .dist18 dextra => Sys2Proof.Machine.execDist18 dextra s
  | .dist19 dextra => Sys2Proof.Machine.execDist19 dextra s
  | .dist20 dextra => Sys2Proof.Machine.execDist20 dextra s
  | .dist21 dextra => Sys2Proof.Machine.execDist21 dextra s
  | .dist22 dextra => Sys2Proof.Machine.execDist22 dextra s
  | .dist23 dextra => Sys2Proof.Machine.execDist23 dextra s
  | .dist24 dextra => Sys2Proof.Machine.execDist24 dextra s
  | .dist25 dextra => Sys2Proof.Machine.execDist25 dextra s
  | .dist26 dextra => Sys2Proof.Machine.execDist26 dextra s
  | .dist27 dextra => Sys2Proof.Machine.execDist27 dextra s
  | .dist28 dextra => Sys2Proof.Machine.execDist28 dextra s
  | .dist29 dextra => Sys2Proof.Machine.execDist29 dextra s
  | .d30 => Sys2Proof.Machine.execD30 s
  | .d31 => Sys2Proof.Machine.execD31 s

end Sys2Proof.Machine
end

