-- ==== Sys2Proof/Machine/Flags.lean ====
section
/-! DEFINITION. The block has no condition flags and no element writes one (10_state.md R26). The only status-like state is the
pair `status` and `err` with the `phase` register; their numeric values, as the host reads them, are here (10_state.md R27, R28,
R30; 60_exceptions.md R211). -/

namespace Sys2Proof.Machine

/-- The 2-bit value of `status` (10_state.md R27). -/
def Status.value : Status → BitVec 2
  | .idle => 0
  | .busy => 1
  | .done => 2
  | .fault => 3

/-- The 4-bit value of `phase` (10_state.md R30). -/
def Phase.value : Phase → BitVec 4
  | .idle => 0
  | .blockHdr => 1
  | .dynCounts => 2
  | .clLens => 3
  | .buildCl => 4
  | .clSyms => 5
  | .buildLd => 6
  | .symbols => 7
  | .done => 8
  | .fault => 9

/-- The `status` that goes with a phase (10_state.md R30, third column). -/
def Phase.status : Phase → Status
  | .idle => .idle
  | .done => .done
  | .fault => .fault
  | .blockHdr => .busy
  | .dynCounts => .busy
  | .clLens => .busy
  | .buildCl => .busy
  | .clSyms => .busy
  | .buildLd => .busy
  | .symbols => .busy

/-- The 4-bit code of a typed failure (60_exceptions.md R211). -/
def Failure.code : Failure → BitVec 4
  | .unexpectedEndOfStream => 1
  | .invalidCodeLengths => 2
  | .invalidRunLength => 3
  | .invalidSymbol => 4
  | .corruptHuffmanCode => 5
  | .unsupportedBlockType => 6
  | .invalidDistance => 7
  | .outputCapacityExceeded => 8

/-- The 4-bit value of `err`: 0 where no failure is recorded (10_state.md R28). -/
def State.errCode (s : State) : BitVec 4 :=
  match s.err with
  | none => 0
  | some f => f.code

end Sys2Proof.Machine
end

