-- ==== Sys2Proof/Machine/HostPort.lean ====
section
/-! DEFINITION. The host's side of the block: the transactions START and RESET, and what the host may read (44_stream_control.md
R190, R191, R197, R198; 10_state.md R40). -/

namespace Sys2Proof.Machine

/-- RESET, the RESET column of 10_state.md R40. DESIGN CHOICE, safe: what R40 leaves unspecified keeps its value (log 8). -/
def hostReset (s : State) : State :=
  { s with
    status := .idle, err := none, phase := .idle, acc := 0, cnt := 0, pos := 0, out := [], olen := 0
    hostCmd := none }

/-- The effect of an accepted START, the START column of 10_state.md R40: what R40 leaves unspecified keeps whatever an earlier
session left (70_reset_and_hazards.md R242). -/
def sessionStart (src : List Byte) (startPos : Nat) (outCap : Option Nat) (s : State) : State :=
  { s with
    status := .busy, err := none, phase := .blockHdr, acc := 0, cnt := 0, pos := startPos, out := [], olen := 0
    wlen := 0, wval := 0
    src := Memory.ofBytes src, srcLen := src.length, startPos := startPos, outCap := outCap
    hostCmd := none }

/-- START: refused while BUSY and for a start past the source (44_stream_control.md R190). -/
def hostStart (src : List Byte) (startPos : Nat) (outCap : Option Nat) (s : State) :
    Host.Outcome State Fault Refusal :=
  if s.status = .busy then .refused .startWhileBusy
  else if src.length < startPos then .refused .startBeyondSource
  else .next (sessionStart src startPos outCap s)

/-- The host's transaction takes its effect. -/
def takeHostCmd (c : HostCmd) (s : State) : Host.Outcome State Fault Refusal :=
  match c with
  | .start src startPos outCap => hostStart src startPos outCap s
  | .reset => .next (hostReset s)

/-- Poll: `status` and `err`, at any time (44_stream_control.md R198). -/
def poll (s : State) : BitVec 2 × BitVec 4 := (s.status.value, s.errCode)

/-- Collect after DONE: the output bytes and `end_pos` = `pos` (44_stream_control.md R197, R198). -/
def collect (s : State) : Option (List Byte × Nat) :=
  if s.status = .done then some (s.out.map (·.2), s.pos) else none

/-- `end_pos` = `pos` at DONE; up to 7 unread bits are dropped there (44_stream_control.md R197). -/
inductive Observation where
  | idle
  | busy
  | done (out : List Byte) (endPos : Nat)
  | fault (code : BitVec 4)
deriving DecidableEq, Repr

/-- All that the host may observe of a session (00_scope.md R18): nothing but the code after a fault, nothing but the fact while it
runs. -/
def observe (s : State) : Observation :=
  match s.status with
  | .idle => .idle
  | .busy => .busy
  | .done => .done (s.out.map (·.2)) s.pos
  | .fault => .fault s.errCode

end Sys2Proof.Machine
end

