-- ==== Sys2Proof/Machine/Sequencer.lean ====
section
/-! DEFINITION. The sequencer: the one step that `phase` enables (44_stream_control.md R192). -/

namespace Sys2Proof.Machine

/-- The rest of a LENn element: the distance element is read and executed in the same step (43_block_symbols.md R163,
30_encoding.md R75). -/
def distanceStep (s : State) : Host.Outcome State Fault Refusal :=
  (fetchDist s).finish fun j s => exec j s

/-- A step that reads an element: BLK, HDR, CLLEN, CLSYM or LLSYM. -/
def elementStep (s : State) : Host.Outcome State Fault Refusal :=
  (fetchElement s).finish fun i s =>
    match exec i s with
    | .next t => if i.isLength then distanceStep t else .next t
    | .fault f => .fault f
    | .refused r => .refused r

/-- The one step enabled while `status` = BUSY, selected by `phase`; no step is enabled otherwise (44_stream_control.md R192). -/
def sequencerStep (s : State) : Host.Outcome State Fault Refusal :=
  if s.status = .busy then
    match s.phase with
    | .blockHdr => elementStep s
    | .dynCounts => elementStep s
    | .clLens => elementStep s
    | .buildCl => buildCl s
    | .clSyms => elementStep s
    | .buildLd => buildLd s
    | .symbols => elementStep s
    | .idle => .fault .noStepEnabled
    | .done => .fault .noStepEnabled
    | .fault => .fault .noStepEnabled
  else .fault .noStepEnabled

/-- One step of the machine: a waiting transaction of the host is taken first, otherwise the sequencer runs (log 2). -/
def machineStep (s : State) : Host.Outcome State Fault Refusal :=
  match s.hostCmd with
  | some c => takeHostCmd c s
  | none => sequencerStep s

end Sys2Proof.Machine
end

