-- ==== Sys2Proof/Safety.lean ====
section
/-! DEFINITION. What the claims speak of: the bitstream a state has yet to read, the state after so many bits, what a running session
keeps true at every step boundary, and when a code table is usable. -/

namespace Sys2Proof.Machine

/-! The bitstream (20_memory.md R54). -/

/-- Stream bit `k`, counted from bit 0 of `src[0]` (20_memory.md R54). -/
def State.streamBit (s : State) (k : Nat) : Bool := ((s.src.read (k / 8)).getD 0).getLsbD (k % 8)

/-- The stream bits from the bit position to the end of the source, in stream order. -/
def State.unread (s : State) : List Bool :=
  (List.range (8 * s.srcLen - s.bitpos)).map fun i => s.streamBit (s.bitpos + i)

/-- The value of an integer field from its bits in stream order (30_encoding.md R72). -/
def fieldValue : List Bool → Nat
  | [] => 0
  | b :: bs => b.toNat + 2 * fieldValue bs

/-- The state `n` stream bits further on: `bitpos` grows by `n`, `pos` is the first byte at or after it, and `acc` holds the bits of
the last fetched byte that are not consumed (10_state.md R22, R23(d); 20_memory.md R58). -/
def State.advance (s : State) (n : Nat) : State :=
  let p := s.bitpos + n
  let pos := (p + 7) / 8
  let cnt := 8 * pos - p
  { s with
    pos := pos
    cnt := cnt
    acc := BitVec.ofNat 24 (((s.src.read (pos - 1)).getD 0).toNat >>> (8 - cnt)) }

/-! What holds at every step boundary. -/

/-- A memory lists exactly the addresses below `n`: the array of `n` bytes the spec describes (20_memory.md R51, R52). -/
def Memory.dense (m : Memory) (n : Nat) : Bool := decide (m.map (·.1) = List.range n)

/-- The BitCursor of a session (10_state.md R23, 00_scope.md R13, 40_bitreader.md R106). -/
structure State.CursorOk (s : State) : Prop where
  acc_lt : s.acc.toNat < 2 ^ s.cnt
  cnt_le : s.cnt ≤ 23
  cnt_fetched : s.cnt ≤ 8 * (s.pos - s.startPos)
  start_le : s.startPos ≤ s.pos
  pos_le : s.pos ≤ s.srcLen
  acc_bits : ∀ i < s.cnt, s.acc.getLsbD i = s.streamBit (s.bitpos + i)
  src_dense : s.src.dense s.srcLen = true

/-- What every step keeps. In a state that stopped in FAULT only what 60_exceptions.md R214 leaves untouched is claimed. -/
structure State.Inv (s : State) : Prop where
  /-- `phase` and `status` agree (10_state.md R30). -/
  phase_status : s.status = s.phase.status
  /-- `err` is 0 exactly while `status` is not FAULT (10_state.md R28). -/
  err_none : s.err = none ↔ s.status ≠ .fault
  cursor : s.status ≠ .idle → s.CursorOk
  cursor_idle : s.status = .idle → s.acc = 0 ∧ s.cnt = 0
  /-- At a boundary of a session that has not failed at most 7 bits are buffered (10_state.md R23(b)). -/
  cnt_boundary : s.status ≠ .fault → s.cnt ≤ 7
  src_dense : s.src.dense s.srcLen = true
  /-- OUT holds exactly the bytes 0 to olen-1 (20_memory.md R52). -/
  out_dense : s.out.dense s.olen = true
  /-- A finite `OUT_CAP` is never passed (43_block_symbols.md R173). -/
  within_cap : ∀ cap, s.outCap = some cap → s.olen ≤ cap
  /-- The walk is empty at a step boundary (10_state.md R39(b)). -/
  walk_empty : s.status = .busy ∨ s.status = .done → s.wlen = 0 ∧ s.wval = 0
  /-- Progress through the dynamic header (42_dynamic_header.md R142, R144, R149). -/
  cl_lens : s.phase = .clLens → s.cli < s.ncl
  build_cl : s.phase = .buildCl → s.cli = s.ncl
  cl_syms : s.phase = .clSyms → s.idx < s.total
  build_ld : s.phase = .buildLd → s.idx = s.total
  /-- Past its header a block is dynamic, and a session is DONE after a final block only (44_stream_control.md R193, R197). -/
  dynamic : s.phase ≠ .blockHdr → s.status = .busy ∨ s.status = .done → s.btype = 2
  done_final : s.status = .done → s.bfinal = 1

/-- A session is running and the host asks nothing. -/
structure State.Running (s : State) : Prop where
  inv : s.Inv
  busy : s.status = .busy
  quiet : s.hostCmd = none

/-- Every register is within the width 10_state.md gives it (R21, R24). -/
structure State.Fits (s : State) : Prop where
  cnt : s.cnt ≤ 23
  cli : s.cli ≤ 19
  idx : s.idx ≤ 320
  sym : s.sym ≤ 287
  extra : s.extra ≤ 8191
  rep : s.rep ≤ 138
  length : s.length ≤ 258
  dsym : s.dsym ≤ 31
  distance : s.distance ≤ 32768
  offset : s.offset ≤ 257
  wlen : s.wlen ≤ 15
  wval : s.wval < 2 ^ s.wlen
  code : s.code ≤ 32768

/-! Code tables. -/

/-- One entry's codeword is a prefix of the other's; an unused symbol has no codeword (41_huffman_builder.md R127(c)). -/
def clashes (a b : Nat × Nat) : Bool :=
  decide (a.1 ≠ 0 ∧ b.1 ≠ 0 ∧
    if a.1 ≤ b.1 then b.2 >>> (b.1 - a.1) = a.2 else a.2 >>> (a.1 - b.1) = b.2)

/-- Every code fits its length, no length passes 15, and no codeword is a prefix of another (41_huffman_builder.md R127(a), (c);
00_scope.md R8). -/
def CodeTable.sound (t : CodeTable) : Bool :=
  t.all (fun e => decide (e.1 ≤ 15 ∧ (e.1 ≠ 0 → e.2 < 2 ^ e.1))) &&
    decide (t.Pairwise fun a b => clashes a b = false)

/-- The codewords of a table, one for each used symbol. -/
def CodeTable.codewords (t : CodeTable) : List (List Bool) :=
  (t.filter fun e => e.1 ≠ 0).map fun e => codewordBits e.1 e.2

/-- After the bits `w` the bit `b` leaves the code: `w` is still inside a codeword (or nothing was read), and with `b` the bits read are
neither a codeword, nor inside one, nor past one (41_huffman_builder.md R131). -/
def CodeTable.leaves (t : CodeTable) (w : List Bool) (b : Bool) : Prop :=
  (w = [] ∨ ∃ cw ∈ t.codewords, w <+: cw) ∧ ∀ cw ∈ t.codewords, ¬ cw <+: w ++ [b] ∧ ¬ w ++ [b] <+: cw

/-- The bits are the beginning of a codeword and not all of one; no bits at all count (41_huffman_builder.md R131). -/
def CodeTable.endsInside (t : CodeTable) (bits : List Bool) : Prop :=
  bits = [] ∨ ∃ cw ∈ t.codewords, bits <+: cw ∧ bits ≠ cw

/-- The Kraft sum of a code-length array, in units of 2^-15 (41_huffman_builder.md R125). -/
def kraft (lens : List Nat) : Nat := ((lens.filter (· ≠ 0)).map fun l => 2 ^ (15 - l)).sum

/-- BUILD accepts the array: some symbol is used and the Kraft sum does not exceed 1 (41_huffman_builder.md R122, R125, R126). -/
def usable (lens : List Nat) : Bool := decide (0 < kraft lens ∧ kraft lens ≤ 2 ^ 15)

/-- The register files hold BUILD's codes for these lengths, at every used symbol (10_state.md R33, R35). -/
def holdsCodesOf (lens : List Nat) (t : CodeTable) : Prop :=
  ∃ codes c, canonicalCodes lens = .ok (codes, c) ∧
    ∀ x cx : Nat, codes[x]? = some (some cx) → t[x]? = some (lens.getD x 0, cx)

/-- The code tables in use are BUILD's (42_dynamic_header.md R143, R150). -/
structure State.TablesBuilt (s : State) : Prop where
  cl : s.phase = .clSyms → holdsCodesOf s.clLens s.clTable
  ll : s.phase = .symbols → holdsCodesOf s.llLens s.llTable
  d : s.phase = .symbols → holdsCodesOf s.dLens s.dTable

/-- The step takes the typed failure `f` (60_exceptions.md R214). -/
def failsWith (f : Failure) (o : Host.Outcome State Fault Refusal) : Prop :=
  ∃ t, o = .next t ∧ t.status = .fault ∧ t.err = some f

/-! Runs. -/

/-- What the host sees after `k` steps, if the model did not stop before. -/
def observeRun (k : Nat) (s : State) : Option Observation :=
  match core.run k s with
  | .next t => some (observe t)
  | _ => none

/-- `s` with a START waiting. -/
def State.askStart (s : State) (src : List Byte) (startPos : Nat) (outCap : Option Nat) : State :=
  { s with hostCmd := some (.start src startPos outCap) }

/-- A bound on the steps left: two for each unread bit, and one for each table build still due in the block (00_scope.md R19). -/
def State.stepsLeft (s : State) : Nat :=
  2 * s.unread.length +
    match s.phase with
    | .dynCounts => 2
    | .clLens => 2
    | .buildCl => 2
    | .clSyms => 1
    | .buildLd => 1
    | _ => 0

end Sys2Proof.Machine
end

