-- ==== Sys2Proof/Certificates/Slice0/Obligations.lean ====
section
/-! DEFINITION. The statements for the provers. Each docstring names the rule of spec/ it formalises. -/

open Sys2Proof Sys2Proof.Machine

/-! Encoding and the step. -/

/-- Words written out from 30_encoding.md R71: `f`, then `btype` with its bit 0 first; then `hlit`, `hdist`, `hclen` from bit 0 up.
The phase a word is read in is the model's choice (log 21). -/
def Obligations.FixedFormatWordsDecode : Prop :=
  decodeTableWord 8 0b101 = some (.blk 1 2) ∧
  decodeTableWord 8 0b100 = some (.blk 0 2) ∧
  decodeTableWord 8 0b001 = some (.blkBtype0 1) ∧
  decodeTableWord 8 0b011 = some (.blkBtype1 1) ∧
  decodeTableWord 8 0b111 = some (.blkBtype3 1) ∧
  decodeTableWord 16 0b11100000000000 = some (.hdr 0 0 14) ∧
  decodeTableWord 16 0b11100011001001 = some (.hdr 9 6 14)

/-- 44_stream_control.md R192, 30_encoding.md R75: a step whose bits decode to `i` is `exec i`, and after a length element the
distance element is read and executed in the same step (log 12). -/
def Obligations.StepRunsDecodedElement : Prop :=
  (∀ (s t : State) (i : Instr), s.hostCmd = none → s.status = .busy → fetchElement s = .ok i t →
    step s = (match exec i t with
      | .next u => if i.isLength then distanceStep u else .next u
      | .fault f => .fault f
      | .refused r => .refused r)) ∧
  (∀ (u v : State) (j : Instr), fetchDist u = .ok j v → distanceStep u = exec j v)

/-- 30_encoding.md R71, R80: where the unread bits begin with the encoding of `i` under the block's code tables, the decoder reads
`i`, with every operand, and consumes exactly its bits. CL16 with nothing to repeat is left out: it fails before it is whole
(see `RepeatWithNothingWrittenFails`). -/
def Obligations.DecodeOfEncode : Prop :=
  ∀ (s : State) (i : Instr) (bits rest : List Bool),
    s.CursorOk → s.cnt ≤ 7 → s.wlen = 0 → s.wval = 0 →
    i.wf = true → i.phase = s.phase →
    (∀ a sym w e, i.layout = .coded a sym w e →
      (tableOf s a).sound = true ∧ ¬ (a = .cl ∧ sym = 16 ∧ s.idx = 0)) →
    encode s i = some bits → s.unread = bits ++ rest →
    (if i.isDistance then fetchDist s else fetchElement s) = .ok i (s.advance bits.length) ∧
      (s.advance bits.length).unread = rest

/-- 44_stream_control.md R192: a running session whose unread bits begin with the encoding of an element other than a length
executes that element at the bit after it. -/
def Obligations.StepExecutesEncodedElement : Prop :=
  ∀ (s : State) (i : Instr) (bits rest : List Bool),
    s.Running → i.wf = true → i.phase = s.phase → i.isLength = false → i.isDistance = false →
    (∀ a sym w e, i.layout = .coded a sym w e →
      (tableOf s a).sound = true ∧ ¬ (a = .cl ∧ sym = 16 ∧ s.idx = 0)) →
    encode s i = some bits → s.unread = bits ++ rest →
    step s = exec i (s.advance bits.length)

/-- 43_block_symbols.md R163: a back-reference is one step; its length element and its distance element are executed in order, and
both elements' bits are consumed. -/
def Obligations.StepExecutesBackReference : Prop :=
  ∀ (s : State) (i j : Instr) (n w e : Nat) (bits bits' rest : List Bool),
    s.Running → s.phase = .symbols →
    i.layout = .coded .ll n w e → i.isLength = true → j.isDistance = true →
    s.llTable.sound = true → s.dTable.sound = true →
    encode s i = some bits → encode s j = some bits' → s.unread = bits ++ bits' ++ rest →
    step s = exec j { s.advance (bits.length + bits'.length) with sym := n, extra := e, length := matchLength n e }

/-! The bit reader. -/

/-- 40_bitreader.md R103, 60_exceptions.md R214. What else the state after the failure holds is the model's (log 10). -/
def Obligations.FetchReadsTheNextByte : Prop :=
  ∀ s : State, s.CursorOk →
    (s.pos = s.srcLen → fetchByte s = .raised (s.raise .unexpectedEndOfStream)) ∧
    (s.pos < s.srcLen → ∃ b, s.src.read s.pos = some b ∧ fetchByte s = .ok b { s with pos := s.pos + 1 })

/-- 40_bitreader.md R107, the characterisation: the value is made of the stream bits at `bitpos`, first bit at bit 0, and the
state is the one `n` bits on; short of `n` bits it raises UnexpectedEndOfStream. What else the state after the failure holds is
the model's (log 10). -/
def Obligations.ReadBitsDeliversStreamBits : Prop :=
  ∀ (s : State) (n : Nat), s.CursorOk → s.cnt ≤ 7 → n ≤ 16 →
    (s.bitpos + n ≤ 8 * s.srcLen →
      readBits n s =
        .ok ((List.range n).map fun i => (s.streamBit (s.bitpos + i)).toNat <<< i).sum (s.advance n)) ∧
    (8 * s.srcLen < s.bitpos + n →
      ∃ acc cnt pos, readBits n s =
        .raised (State.raise .unexpectedEndOfStream { s with acc := acc, cnt := cnt, pos := pos }))

/-- 40_bitreader.md R106: the bounds of the BitCursor across a read and a peek, also one that fails. -/
def Obligations.ReadsKeepTheCursorBounds : Prop :=
  ∀ (s t : State) (n : Nat), n ≤ 16 → s.cnt ≤ 23 → s.acc.toNat < 2 ^ s.cnt →
    ((∃ v, readBits n s = .ok v t) ∨ (∃ v, peekBits n s = .ok v t) ∨ readBits n s = .raised t ∨
      peekBits n s = .raised t) →
    t.cnt ≤ 23 ∧ t.acc.toNat < 2 ^ t.cnt ∧ ((∃ v, readBits n s = .ok v t) → s.cnt ≤ 7 → t.cnt ≤ 7)

/-- 40_bitreader.md R104. -/
def Obligations.ZeroWidthReadChangesNothing : Prop :=
  ∀ s : State, readBits 0 s = .ok 0 s ∧ peekBits 0 s = .ok 0 s

/-- 40_bitreader.md R105. -/
def Obligations.WideReadIsRefused : Prop :=
  ∀ (s : State) (n : Nat), 16 < n →
    readBits n s = .refuse .readTooWide ∧ peekBits n s = .refuse .readTooWide

/-- 40_bitreader.md R102: a peek leaves the bit position, and the read after it returns the same value and fetches nothing. -/
def Obligations.PeekThenReadAgree : Prop :=
  ∀ (s t : State) (n v : Nat), peekBits n s = .ok v t →
    t.bitpos = s.bitpos ∧ peekBits n t = .ok v t ∧
      readBits n t = .ok v { t with acc := t.acc >>> n, cnt := t.cnt - n }

/-- 40_bitreader.md R107, the consequence: two reads in a row are one read of both widths. -/
def Obligations.ReadsCompose : Prop :=
  ∀ (s t u : State) (a b x y : Nat), a + b ≤ 16 → s.cnt ≤ 23 → s.acc.toNat < 2 ^ s.cnt →
    readBits a s = .ok x t → readBits b t = .ok y u →
    readBits (a + b) s = .ok (x ||| y <<< a) u

/-! BUILD and DECODE_SYM. -/

/-- 41_huffman_builder.md R122, 60_exceptions.md R214. What else the state after the failure holds is the model's (log 10). -/
def Obligations.AllZeroLengthsAreInvalid : Prop :=
  ∀ (lens : List Nat) (s : State), (∀ l ∈ lens, l = 0) →
    build lens s = .raised (s.raise .invalidCodeLengths)

/-- 41_huffman_builder.md R125, R126: an array with a used symbol is refused exactly when its Kraft sum exceeds 1; an incomplete
one is accepted. What else the state after the failure holds is the model's (log 10). -/
def Obligations.OversubscribedLengthsAreInvalid : Prop :=
  ∀ (lens : List Nat) (s : State), (∀ l ∈ lens, l ≤ 15) → 0 < kraft lens →
    (2 ^ 15 < kraft lens → ∃ c, build lens s = .raised (State.raise .invalidCodeLengths { s with code := c })) ∧
    (kraft lens ≤ 2 ^ 15 → ∃ codes c, build lens s = .ok codes { s with code := c })

/-- 41_huffman_builder.md R127(d): the closed form of a code. -/
def Obligations.CanonicalCodeClosedForm : Prop :=
  ∀ (lens : List Nat) (codes : List (Option Nat)) (c : Nat), 0 < kraft lens →
    canonicalCodes lens = .ok (codes, c) →
    codes.length = lens.length ∧
    ∀ x l, lens[x]? = some l →
      (l = 0 → codes[x]? = some none) ∧
      (l ≠ 0 → codes[x]? = some (some
        (((List.range l).map fun k => if k = 0 then 0 else lens.count k * 2 ^ (l - k)).sum + (lens.take x).count l)))

/-- 41_huffman_builder.md R127(a), (b), (c): codes fit their lengths, equal lengths are numbered in symbol order, and no codeword is
a prefix of another. -/
def Obligations.CanonicalCodesArePrefixFree : Prop :=
  ∀ (lens : List Nat) (codes : List (Option Nat)) (c : Nat), (∀ l ∈ lens, l ≤ 15) → 0 < kraft lens →
    canonicalCodes lens = .ok (codes, c) →
    CodeTable.sound (lens.zip (codes.map fun o => o.getD 0)) = true ∧
    ∀ x y l cx cy : Nat, x < y → lens[x]? = some l → lens[y]? = some l →
      codes[x]? = some (some cx) → codes[y]? = some (some cy) → cx < cy

/-- 41_huffman_builder.md R130, R131: the three outcomes of a symbol decode. A codeword at the bit position resolves its symbol
and is consumed whole; the first bit after which the bits read match nothing raises CorruptHuffmanCode at that bit; a source
that ends before either raises UnexpectedEndOfStream. What else the state after the failure holds is the model's (log 10). -/
def Obligations.DecodeSymOutcomes : Prop :=
  ∀ (t : CodeTable) (s : State), t.sound = true → s.CursorOk → s.cnt ≤ 7 →
    (∀ (x l c : Nat) (rest : List Bool), t[x]? = some (l, c) → l ≠ 0 → s.unread = codewordBits l c ++ rest →
      decodeSym t s = .ok x (State.advance { s with wlen := 0, wval := 0 } l)) ∧
    (∀ (w : List Bool) (b : Bool) (rest : List Bool), s.unread = w ++ b :: rest →
      (w = [] ∨ ∃ cw ∈ t.codewords, w <+: cw) →
      (∀ cw ∈ t.codewords, ¬ cw <+: w ++ [b] ∧ ¬ w ++ [b] <+: cw) →
      ∃ u, decodeSym t s = .raised u ∧ u.status = .fault ∧ u.err = some .corruptHuffmanCode ∧
        u.bitpos = s.bitpos + w.length + 1) ∧
    (s.unread = [] ∨ (∃ cw ∈ t.codewords, s.unread <+: cw ∧ s.unread ≠ cw) →
      ∃ u, decodeSym t s = .raised u ∧ u.status = .fault ∧ u.err = some .unexpectedEndOfStream)

/-! The block header. -/

/-- 44_stream_control.md R193: what BLK and its reserved forms do, whatever the state. What else the state after the failure
holds is the model's (log 10). A register the rule does not name keeps its value (log 19). -/
def Obligations.BlockHeaderElements : Prop :=
  ∀ (s : State) (f : BitVec 1),
    exec (.blk f 2) s = .next { s with bfinal := f, btype := 2, phase := .dynCounts } ∧
    exec (.blkBtype0 f) s = .next (State.raise .unsupportedBlockType { s with bfinal := f, btype := 0 }) ∧
    exec (.blkBtype1 f) s = .next (State.raise .unsupportedBlockType { s with bfinal := f, btype := 1 }) ∧
    exec (.blkBtype3 f) s = .next (State.raise .unsupportedBlockType { s with bfinal := f, btype := 3 })

/-- 44_stream_control.md R193, from the stream bits: `bfinal` is the first bit, `btype` the next two, least significant first;
any value but 2 is UnsupportedBlockType; three bits are needed. A register the rule does not name keeps its value (log 19). What
else the state after the failure holds is the model's (log 10). -/
def Obligations.BlockHeaderStep : Prop :=
  ∀ s : State, s.Running → s.phase = .blockHdr →
    (∀ (f a b : Bool) (rest : List Bool), s.unread = f :: a :: b :: rest →
      step s = .next
        (let h := { s.advance 3 with bfinal := BitVec.ofNat 1 f.toNat, btype := BitVec.ofNat 2 (fieldValue [a, b]) }
         if a = false ∧ b = true then { h with phase := .dynCounts } else h.raise .unsupportedBlockType)) ∧
    (s.unread.length < 3 →
      ∃ t, step s = .next t ∧ t.status = .fault ∧ t.err = some .unexpectedEndOfStream)

/-! The dynamic header. -/

/-- 42_dynamic_header.md R141: what HDR does, whatever the state. A register the rule does not name keeps its value (log 19). -/
def Obligations.HeaderCountsElement : Prop :=
  ∀ (s : State) (hlit hdist : BitVec 5) (hclen : BitVec 4),
    exec (.hdr hlit hdist hclen) s =
      .next { s with
        hlit := hlit, hdist := hdist, hclen := hclen, clLen := Vector.replicate 19 0, cli := 0, phase := .clLens }

/-- 42_dynamic_header.md R141, from the stream bits: three fields of 5, 5 and 4 bits, every value accepted. A register the rule
does not name keeps its value (log 19). -/
def Obligations.HeaderCountsStep : Prop :=
  ∀ s : State, s.Running → s.phase = .dynCounts →
    (∀ l d c rest : List Bool, l.length = 5 → d.length = 5 → c.length = 4 → s.unread = l ++ d ++ c ++ rest →
      step s = .next
        { s.advance 14 with
          hlit := BitVec.ofNat 5 (fieldValue l), hdist := BitVec.ofNat 5 (fieldValue d)
          hclen := BitVec.ofNat 4 (fieldValue c), clLen := Vector.replicate 19 0, cli := 0, phase := .clLens }) ∧
    (s.unread.length < 14 →
      ∃ t, step s = .next t ∧ t.status = .fault ∧ t.err = some .unexpectedEndOfStream)

/-- 42_dynamic_header.md R142: CLLEN writes the slot `CL_ORDER[cli]` and no other, counts, and leaves the phase after the `hclen
+ 4`-th. A register the rule does not name keeps its value (log 19). -/
def Obligations.CodeLengthCodeLengthElement : Prop :=
  ∀ (s : State) (v : BitVec 3) (slot : Nat), clOrder[s.cli]? = some slot →
    ∃ t, exec (.cllen v) s = .next t ∧
      t = { s with
        clLen := t.clLen, cli := s.cli + 1
        phase := if s.cli + 1 = s.hclen.toNat + 4 then .buildCl else s.phase } ∧
      t.clLen.toList.getD slot 0 = v ∧
      ∀ k, k ≠ slot → t.clLen.toList.getD k 0 = s.clLen.toList.getD k 0

/-- 42_dynamic_header.md R142, from the stream bits, with the permutation written out. A register the rule does not name keeps
its value (log 19). -/
def Obligations.CodeLengthCodeLengthStep : Prop :=
  ∀ s : State, s.Running → s.phase = .clLens →
    (∀ (a b c : Bool) (rest : List Bool), s.unread = a :: b :: c :: rest →
      step s = .next
        { s.advance 3 with
          clLen := s.clLen.setIfInBounds
            ([16, 17, 18, 0, 8, 7, 9, 6, 10, 5, 11, 4, 12, 3, 13, 2, 14, 1, 15].getD s.cli 0)
            (BitVec.ofNat 3 (fieldValue [a, b, c]))
          cli := s.cli + 1
          phase := if s.cli + 1 = s.hclen.toNat + 4 then .buildCl else .clLens }) ∧
    (s.unread.length < 3 →
      ∃ t, step s = .next t ∧ t.status = .fault ∧ t.err = some .unexpectedEndOfStream)

/-- 42_dynamic_header.md R143: BUILD_CL reads no bit; it builds the code of `cl_len` and restarts `idx`, or raises
InvalidCodeLengths. A register the rule does not name keeps its value (log 19). What else the state after the failure holds is
the model's (log 10). -/
def Obligations.BuildCodeLengthCodeStep : Prop :=
  ∀ s : State, s.hostCmd = none → s.status = .busy → s.phase = .buildCl →
    (usable s.clLens = true →
      ∃ t, step s = .next t ∧
        t = { s with clCode := t.clCode, code := t.code, idx := 0, phase := .clSyms } ∧
        holdsCodesOf s.clLens t.clTable) ∧
    (usable s.clLens = false →
      ∃ c, step s = .next (State.raise .invalidCodeLengths { s with code := c }))

/-- 42_dynamic_header.md R150: BUILD_LD reads no bit; it builds both codes of the split array, or raises InvalidCodeLengths when
either cannot be built. A register the rule does not name keeps its value (log 19). What else the state after the failure holds
is the model's (log 10). -/
def Obligations.BuildBlockCodesStep : Prop :=
  ∀ s : State, s.hostCmd = none → s.status = .busy → s.phase = .buildLd →
    (usable s.llLens = true → usable s.dLens = true →
      ∃ t, step s = .next t ∧
        t = { s with llCode := t.llCode, dCode := t.dCode, code := t.code, phase := .symbols } ∧
        holdsCodesOf s.llLens t.llTable ∧ holdsCodesOf s.dLens t.dTable) ∧
    (usable s.llLens = false ∨ usable s.dLens = false →
      ∃ t, step s = .next t ∧ t.status = .fault ∧ t.err = some .invalidCodeLengths ∧ t.bitpos = s.bitpos)

/-- 42_dynamic_header.md R145, with the frame: CL0 to CL15 (the elements of alphabet CL with no extra bits) write the symbol as
the length at `idx`; a full array leaves the phase (R144). A register the rule does not name keeps its value (log 19). -/
def Obligations.CodeLengthLiterals : Prop :=
  ∀ (s : State) (i : Instr) (n : Nat), i.layout = .coded .cl n 0 0 → s.idx < s.total →
    n ≤ 15 ∧ ∃ t, exec i s = .next t ∧
      t = { s with
        sym := n, lens := t.lens, idx := s.idx + 1
        phase := if s.idx + 1 = s.total then .buildLd else s.phase } ∧
      ∀ k, t.lensAt k = if k = s.idx then BitVec.ofNat 4 n else s.lensAt k

/-- 42_dynamic_header.md R146, with the frame: CL16 repeats the last written length `3 + extra` times; nothing to repeat, or a
run past `total`, is InvalidRunLength and writes no length. What else the state after the failure holds is the model's (log 10).
A register the rule does not name keeps its value (log 19). -/
def Obligations.RepeatPreviousLength : Prop :=
  ∀ (s : State) (e : BitVec 2),
    (s.idx ≠ 0 → s.idx + (3 + e.toNat) ≤ s.total →
      ∃ t, exec (.cl16 e) s = .next t ∧
        t = { s with
          sym := 16, extra := e.toNat, rep := 3 + e.toNat, lens := t.lens, idx := s.idx + (3 + e.toNat)
          phase := if s.idx + (3 + e.toNat) = s.total then .buildLd else s.phase } ∧
        ∀ k, t.lensAt k =
          if s.idx ≤ k ∧ k < s.idx + (3 + e.toNat) then s.lensAt (s.idx - 1) else s.lensAt k) ∧
    (s.idx = 0 → exec (.cl16 e) s = .next (State.raise .invalidRunLength { s with sym := 16 })) ∧
    (s.idx ≠ 0 → s.total < s.idx + (3 + e.toNat) →
      exec (.cl16 e) s = .next
        (State.raise .invalidRunLength { s with sym := 16, extra := e.toNat, rep := 3 + e.toNat }))

/-- 42_dynamic_header.md R147 and R148, with the frame: CL17 writes `3 + extra` zeros and CL18 `11 + extra`; a run past `total`
is InvalidRunLength and writes no length. What else the state after the failure holds is the model's (log 10). A register the
rule does not name keeps its value (log 19). -/
def Obligations.ZeroRuns : Prop :=
  ∀ (s : State) (i : Instr) (n e rep : Nat),
    ((∃ x : BitVec 3, i = .cl17 x ∧ n = 17 ∧ e = x.toNat ∧ rep = 3 + e) ∨
      (∃ x : BitVec 7, i = .cl18 x ∧ n = 18 ∧ e = x.toNat ∧ rep = 11 + e)) →
    (s.idx + rep ≤ s.total →
      ∃ t, exec i s = .next t ∧
        t = { s with
          sym := n, extra := e, rep := rep, lens := t.lens, idx := s.idx + rep
          phase := if s.idx + rep = s.total then .buildLd else s.phase } ∧
        ∀ k, t.lensAt k = if s.idx ≤ k ∧ k < s.idx + rep then 0 else s.lensAt k) ∧
    (s.total < s.idx + rep →
      exec i s = .next (State.raise .invalidRunLength { s with sym := n, extra := e, rep := rep }))

/-- 42_dynamic_header.md R146, 60_exceptions.md R221: the codeword of CL16 as the first code-length symbol fails at once,
whatever follows it, also nothing. What else the state after the failure holds is the model's (log 10). -/
def Obligations.RepeatWithNothingWrittenFails : Prop :=
  ∀ (s : State) (l c : Nat) (rest : List Bool),
    s.Running → s.phase = .clSyms → s.idx = 0 → s.clTable.sound = true →
    s.clTable[16]? = some (l, c) → l ≠ 0 → s.unread = codewordBits l c ++ rest →
    ∃ t, step s = .next t ∧ t.status = .fault ∧ t.err = some .invalidRunLength ∧ t.lens = s.lens

/-! The symbols of a block. -/

/-- 43_block_symbols.md R161 and R173, with the frame: LIT appends its byte; at a finite `OUT_CAP` it raises instead and writes
nothing. A register the rule does not name keeps its value (log 19). What else the state after the failure holds is the model's
(log 10). -/
def Obligations.LiteralAppends : Prop :=
  ∀ (s : State) (b : BitVec 8),
    ((∀ cap, s.outCap = some cap → s.olen + 1 ≤ cap) →
      ∃ t, exec (.lit b) s = .next t ∧
        t = { s with sym := b.toNat, out := t.out, olen := s.olen + 1 } ∧
        t.out.read s.olen = some b ∧ ∀ a, a ≠ s.olen → t.out.read a = s.out.read a) ∧
    (∀ cap, s.outCap = some cap → cap < s.olen + 1 →
      exec (.lit b) s = .next (State.raise .outputCapacityExceeded { s with sym := b.toNat }))

/-- 43_block_symbols.md R162, 44_stream_control.md R196, with the frame: EOB writes nothing to OUT; `bfinal` decides. A register
the rule does not name keeps its value (log 19). -/
def Obligations.EndOfBlock : Prop :=
  ∀ s : State,
    (s.bfinal = 1 → exec .eob s = .next { s with sym := 256, phase := .done, status := .done }) ∧
    (s.bfinal = 0 → exec .eob s = .next { s with sym := 256, phase := .blockHdr })

/-- 43_block_symbols.md R163, R165, with the frame: LEN257 to LEN285 (the length elements) give the match length, which is 3 to
258. The rest of the back-reference is the distance element's (log 12). A register the rule does not name keeps its value (log
19). Part of the table entries are the spec's own inference (log 23). -/
def Obligations.LengthElements : Prop :=
  ∀ (s : State) (i : Instr) (n w e : Nat), i.layout = .coded .ll n w e → i.isLength = true →
    exec i s = .next { s with sym := n, extra := e, length := lenBase.getD (n - 257) 0 + e } ∧
      w = lenExtra.getD (n - 257) 0 ∧ e < 2 ^ w ∧ 3 ≤ lenBase.getD (n - 257) 0 + e ∧ lenBase.getD (n - 257) 0 + e ≤ 258

/-- 43_block_symbols.md R166, R168, R171, R172, with the frame: DIST0 to DIST29 give the distance and copy; byte `k` of the copy
is byte `k mod distance` of the last `distance` bytes, and no other byte of OUT changes. A register the rule does not name keeps
its value (log 19). Part of the table entries are the spec's own inference (log 23). -/
def Obligations.DistanceElementsCopy : Prop :=
  ∀ (s : State) (i : Instr) (m w e d : Nat), i.layout = .coded .d m w e → m ≤ 29 → d = distBase.getD m 0 + e →
    d ≤ s.olen → (∀ cap, s.outCap = some cap → s.olen + s.length ≤ cap) → 0 < s.length →
    (∀ a < s.olen, (s.out.read a).isSome = true) →
    ∃ t, exec i s = .next t ∧
      t = { s with
        dsym := m, extra := e, distance := d, offset := s.length - 1, out := t.out, olen := s.olen + s.length } ∧
      (∀ k < s.length, t.out.read (s.olen + k) = s.out.read (s.olen - d + k % d)) ∧
      ∀ a, a < s.olen ∨ s.olen + s.length ≤ a → t.out.read a = s.out.read a

/-- 43_block_symbols.md R170: a distance past the start of OUT is InvalidDistance, and OUT is not written. What else the state
after the failure holds is the model's (log 10). Part of the table entries are the spec's own inference (log 23). -/
def Obligations.DistanceBeyondOutputFails : Prop :=
  ∀ (s : State) (i : Instr) (m w e d : Nat), i.layout = .coded .d m w e → m ≤ 29 → d = distBase.getD m 0 + e →
    s.olen < d →
    exec i s = .next (State.raise .invalidDistance { s with dsym := m, extra := e, distance := d })

/-- 43_block_symbols.md R173, 60_exceptions.md R213: a copy past a finite `OUT_CAP` is OutputCapacityExceeded, after the
distance check and before the first byte. What else the state after the failure holds is the model's (log 10). Part of the table
entries are the spec's own inference (log 23). -/
def Obligations.CopyBeyondCapacityFails : Prop :=
  ∀ (s : State) (i : Instr) (m w e d cap : Nat), i.layout = .coded .d m w e → m ≤ 29 →
    d = distBase.getD m 0 + e → d ≤ s.olen → s.outCap = some cap → cap < s.olen + s.length →
    exec i s = .next (State.raise .outputCapacityExceeded { s with dsym := m, extra := e, distance := d })

/-- 43_block_symbols.md R164 and R167: the reserved symbols are InvalidSymbol, and OUT is not written. What else the state after
the failure holds is the model's (log 10). -/
def Obligations.ReservedSymbolsFail : Prop :=
  ∀ s : State,
    exec .ll286 s = .next (State.raise .invalidSymbol { s with sym := 286 }) ∧
    exec .ll287 s = .next (State.raise .invalidSymbol { s with sym := 287 }) ∧
    exec .d30 s = .next (State.raise .invalidSymbol { s with dsym := 30 }) ∧
    exec .d31 s = .next (State.raise .invalidSymbol { s with dsym := 31 })

/-- 43_block_symbols.md R165, R168: the two tables, entry by entry; the ranges of the length codes 257 to 284 and of the
distance codes cover 3 to 258 and 1 to 32768, each value once; LEN285 is 258 again. Part of the table entries are the spec's own
inference (log 23). -/
def Obligations.LengthAndDistanceCodesCover : Prop :=
  (lenExtra = [0, 0, 0, 0, 0, 0, 0, 0, 1, 1, 1, 1, 2, 2, 2, 2, 3, 3, 3, 3, 4, 4, 4, 4, 5, 5, 5, 5, 0] ∧
    lenBase = [3, 4, 5, 6, 7, 8, 9, 10, 11, 13, 15, 17, 19, 23, 27, 31, 35, 43, 51, 59, 67, 83, 99, 115, 131, 163, 195, 227,
      258]) ∧
  (distExtra = [0, 0, 0, 0, 1, 1, 2, 2, 3, 3, 4, 4, 5, 5, 6, 6, 7, 7, 8, 8, 9, 9, 10, 10, 11, 11, 12, 12, 13, 13] ∧
    distBase = [1, 2, 3, 4, 5, 7, 9, 13, 17, 25, 33, 49, 65, 97, 129, 193, 257, 385, 513, 769, 1025, 1537, 2049, 3073, 4097,
      6145, 8193, 12289, 16385, 24577]) ∧
  (∀ l, 3 ≤ l ∧ l ≤ 258 ↔ ∃ i e, i < 28 ∧ e < 2 ^ lenExtra.getD i 0 ∧ lenBase.getD i 0 + e = l) ∧
  (∀ d, 1 ≤ d ∧ d ≤ 32768 ↔ ∃ m e, m < 30 ∧ e < 2 ^ distExtra.getD m 0 ∧ distBase.getD m 0 + e = d) ∧
  (∀ i i' e e', i < 28 → i' < 28 → e < 2 ^ lenExtra.getD i 0 → e' < 2 ^ lenExtra.getD i' 0 →
    lenBase.getD i 0 + e = lenBase.getD i' 0 + e' → i = i' ∧ e = e') ∧
  (∀ m m' e e', m < 30 → m' < 30 → e < 2 ^ distExtra.getD m 0 → e' < 2 ^ distExtra.getD m' 0 →
    distBase.getD m 0 + e = distBase.getD m' 0 + e' → m = m' ∧ e = e') ∧
  lenBase.getD 28 0 = 258 ∧ lenExtra.getD 28 0 = 0

/-! Faults and status. -/

/-- 60_exceptions.md R214: the step that ends a session in FAULT writes nothing to OUT, and records the code. -/
def Obligations.FaultIsPrecise : Prop :=
  ∀ s t : State, s.hostCmd = none → step s = .next t → t.status = .fault →
    t.out = s.out ∧ t.olen = s.olen ∧ t.phase = .fault ∧ t.err ≠ none

/-- 10_state.md R28: `err` reads 0 exactly while `status` is not FAULT; it is written by `raise` and cleared by the host's
commands only; once a failure is recorded no step runs that could overwrite it. The codes, which 60_exceptions.md R211 lists,
are what the host reads. -/
def Obligations.ErrIsWrittenByRaiseOnly : Prop :=
  (Failure.unexpectedEndOfStream.code = 1 ∧ Failure.invalidCodeLengths.code = 2 ∧ Failure.invalidRunLength.code = 3 ∧
    Failure.invalidSymbol.code = 4 ∧ Failure.corruptHuffmanCode.code = 5 ∧ Failure.unsupportedBlockType.code = 6 ∧
    Failure.invalidDistance.code = 7 ∧ Failure.outputCapacityExceeded.code = 8) ∧
  (∀ (s : State) (f : Failure), s.status = .fault → s.err = some f → poll s = (3, f.code) ∧ observe s = .fault f.code) ∧
  (∀ s : State, s.Inv → (s.errCode = 0 ↔ s.status ≠ .fault)) ∧
  (∀ s : State, s.hostCmd = none → s.status = .fault → ∀ t, step s ≠ .next t) ∧
  (∀ s t : State, step s = .next t →
    (s.hostCmd = none → t.status ≠ .fault → t.err = s.err) ∧
    (s.hostCmd ≠ none → t.err = none) ∧
    (s.hostCmd = none → t.status = .fault → ∃ f, t.err = some f ∧ t.errCode = f.code ∧ t.errCode ≠ 0))

/-- 10_state.md R27: the transitions of `status`. -/
def Obligations.StatusTransitions : Prop :=
  (Status.idle.value = 0 ∧ Status.busy.value = 1 ∧ Status.done.value = 2 ∧ Status.fault.value = 3) ∧
  (∀ s t : State, step s = .next t →
    (∀ src p cap, s.hostCmd = some (.start src p cap) → s.status ≠ .busy ∧ t.status = .busy) ∧
    (s.hostCmd = some .reset → t.status = .idle) ∧
    (s.hostCmd = none → s.status = .busy ∧
      (t.status = .busy ∨ t.status = .fault ∨
        (t.status = .done ∧ s.phase = .symbols ∧ s.bfinal = 1 ∧ t.sym = 256))))

/-- 44_stream_control.md R192, 60_exceptions.md R215: IDLE, DONE and FAULT enable no step; only the host leaves them. That
`step` answers the stop `noStepEnabled` there is the model's choice (log 7). -/
def Obligations.NoStepWithoutSession : Prop :=
  ∀ s : State, s.hostCmd = none → s.status ≠ .busy → step s = .fault .noStepEnabled

/-! The host. -/

/-- 44_stream_control.md R190: START, with the frame. What R40 leaves unspecified keeps its value, as R242 says (log 9). -/
def Obligations.StartBeginsASession : Prop :=
  ∀ (s : State) (src : List Byte) (p : Nat) (cap : Option Nat), s.hostCmd = some (.start src p cap) →
    (s.status = .busy → step s = .refused .startWhileBusy) ∧
    (s.status ≠ .busy → src.length < p → step s = .refused .startBeyondSource) ∧
    (s.status ≠ .busy → p ≤ src.length →
      ∃ t, step s = .next t ∧
        t = { s with
          status := .busy, err := none, phase := .blockHdr, acc := 0, cnt := 0, pos := p, out := [], olen := 0
          wlen := 0, wval := 0, src := t.src, srcLen := src.length, startPos := p, outCap := cap, hostCmd := none } ∧
        (∀ a, t.src.read a = src[a]?) ∧ t.bitpos = 8 * p ∧ t.unread.length = 8 * (src.length - p))

/-- 44_stream_control.md R191, 70_reset_and_hazards.md R241: RESET, in any state. What R40 leaves unspecified keeps its value: the
model's choice (log 8), not claimed here. -/
def Obligations.ResetAbandonsTheSession : Prop :=
  ∀ s : State, s.hostCmd = some .reset →
    ∃ t, step s = .next t ∧ t.status = .idle ∧ t.err = none ∧ t.phase = .idle ∧ t.acc = 0 ∧ t.cnt = 0 ∧ t.pos = 0 ∧
      t.out = [] ∧ t.olen = 0 ∧ t.hostCmd = none

/-- 70_reset_and_hazards.md R240, the values the spec gives. -/
def Obligations.ResetValues : Prop :=
  State.reset.status = .idle ∧ State.reset.err = none ∧ State.reset.phase = .idle ∧ State.reset.acc = 0 ∧
    State.reset.cnt = 0 ∧ State.reset.pos = 0 ∧ State.reset.out = [] ∧ State.reset.olen = 0

/-- 44_stream_control.md R197, R198: after DONE the host collects the output in order and `end_pos`, the first byte boundary at or
after the end of the data; after any other end it collects nothing. -/
def Obligations.CollectedResult : Prop :=
  ∀ s : State, s.Inv →
    (s.status = .done → ∃ out, collect s = some (out, (s.bitpos + 7) / 8) ∧ out.length = s.olen ∧
      ∀ a, out[a]? = s.out.read a) ∧
    (s.status ≠ .done → collect s = none)

/-! Whole-machine rules. -/

/-- 10_state.md R23, R30, R39, 00_scope.md R13: every step keeps the invariant. -/
def Obligations.StepKeepsInvariant : Prop :=
  ∀ s t : State, s.Inv → step s = .next t → t.Inv

/-- The invariants hold at reset. The registers R40 leaves unspecified are the model's zeros (log 1). -/
def Obligations.ResetMeetsInvariants : Prop :=
  State.reset.Inv ∧ State.reset.Fits ∧ State.reset.TablesBuilt

/-- 10_state.md R21, R24, 00_scope.md R13: no operation leaves the range of its register. -/
def Obligations.StepKeepsRegisterWidths : Prop :=
  ∀ s t : State, s.Fits → step s = .next t → t.Fits

/-- 42_dynamic_header.md R143, R150, 10_state.md R42: the code tables in use are the ones built from the lengths of the same block. -/
def Obligations.StepKeepsCodeTables : Prop :=
  ∀ s t : State, s.TablesBuilt → step s = .next t → t.TablesBuilt

/-- 41_huffman_builder.md R127: a table that BUILD made is prefix-free. -/
def Obligations.BuiltTablesAreSound : Prop :=
  ∀ s : State, s.TablesBuilt →
    (s.phase = .clSyms → s.clTable.sound = true) ∧
    (s.phase = .symbols → s.llTable.sound = true ∧ s.dTable.sound = true)

/-- 00_scope.md R19, 44_stream_control.md R192: in a running session some next state always follows; no model stop and no refusal. -/
def Obligations.RunningSessionNeverStops : Prop :=
  ∀ s : State, s.Running → ∃ t, step s = .next t

/-- 20_memory.md R50, R52, 10_state.md R22, R37: SRC and the session's parameters are constant, the bit position only grows, and a byte
of OUT never changes once written. -/
def Obligations.StepOnlyMovesForward : Prop :=
  ∀ s t : State, s.hostCmd = none → step s = .next t →
    t.src = s.src ∧ t.srcLen = s.srcLen ∧ t.startPos = s.startPos ∧ t.outCap = s.outCap ∧ t.hostCmd = none ∧
      s.olen ≤ t.olen ∧ (∀ a < s.olen, t.out.read a = s.out.read a) ∧ (s.Inv → s.bitpos ≤ t.bitpos)

/-- 00_scope.md R19: each step of a session that goes on lowers the bound on the steps left. -/
def Obligations.StepsLeftFalls : Prop :=
  ∀ s t : State, s.Running → step s = .next t → t.status = .busy → t.stepsLeft < s.stepsLeft

/-- 00_scope.md R19: every session ends, in DONE or FAULT, within `2*B + 1` steps. -/
def Obligations.EverySessionEnds : Prop :=
  ∀ (s : State) (src : List Byte) (p : Nat) (cap : Option Nat), s.status ≠ .busy → p ≤ src.length →
    ∃ k t, k ≤ 2 * (8 * (src.length - p)) + 1 ∧ core.run (k + 1) (s.askStart src p cap) = .next t ∧
      (t.status = .done ∨ t.status = .fault)

/-- 43_block_symbols.md R174: at most 129 bytes of output for each bit consumed. -/
def Obligations.OutputIsBounded : Prop :=
  ∀ s t : State, s.Running → s.olen ≤ 129 * (s.bitpos - 8 * s.startPos) → step s = .next t →
    t.olen ≤ 129 * (t.bitpos - 8 * t.startPos) ∧ t.olen ≤ 129 * 8 * (t.srcLen - t.startPos)

/-- 20_memory.md R51, 60_exceptions.md R225: bytes of SRC before `start_pos` have no influence on what the host observes. -/
def Obligations.BytesBeforeStartAreNeverRead : Prop :=
  ∀ (s : State) (src src' : List Byte) (p k : Nat) (cap : Option Nat), src.length = src'.length →
    (∀ a, p ≤ a → src[a]? = src'[a]?) →
    observeRun k (s.askStart src p cap) = observeRun k (s.askStart src' p cap)

/-- 20_memory.md R51, 44_stream_control.md R197: a session that ends DONE ends so whatever bytes follow its source. -/
def Obligations.BytesAfterTheEndAreNeverRead : Prop :=
  ∀ (s : State) (src tail out : List Byte) (p k e : Nat) (cap : Option Nat),
    observeRun (k + 1) (s.askStart src p cap) = some (.done out e) →
    observeRun (k + 1) (s.askStart (src ++ tail) p cap) = some (.done out e)

/-- 70_reset_and_hazards.md R241, R242: nothing an earlier session left influences what the host observes of the next one. -/
def Obligations.EarlierSessionsAreForgotten : Prop :=
  ∀ (s s' : State) (src : List Byte) (p k : Nat) (cap : Option Nat), s.status ≠ .busy → s'.status ≠ .busy →
    observeRun (k + 1) (s.askStart src p cap) = observeRun (k + 1) (s'.askStart src p cap)

/-! Steps whose symbol does not resolve. -/

/-- 42_dynamic_header.md R144, 43_block_symbols.md R160, 60_exceptions.md R221: the step of a code-length or a literal/length symbol,
where the bits leave the code (CorruptHuffmanCode), and where the source ends inside the codeword or inside the extra bits after it
(UnexpectedEndOfStream, before any check of the run). CL16 with nothing to repeat fails otherwise (see
`RepeatWithNothingWrittenFails`). -/
def Obligations.SymbolStepFailures : Prop :=
  ∀ (s : State) (a : Alphabet), s.Running →
    (s.phase = .clSyms ∧ a = .cl) ∨ (s.phase = .symbols ∧ a = .ll) → (tableOf s a).sound = true →
    (∀ (w : List Bool) (b : Bool) (rest : List Bool), s.unread = w ++ b :: rest → (tableOf s a).leaves w b →
      failsWith .corruptHuffmanCode (step s)) ∧
    ((tableOf s a).endsInside s.unread → failsWith .unexpectedEndOfStream (step s)) ∧
    (∀ (i : Instr) (n w e : Nat) (c x : List Bool), i.layout = .coded a n w e → ¬ (a = .cl ∧ n = 16 ∧ s.idx = 0) →
      codeword (tableOf s a) n = some c → s.unread = c ++ x → x.length < w →
      failsWith .unexpectedEndOfStream (step s))

/-- 43_block_symbols.md R163, 60_exceptions.md R221: the distance half of a back-reference, after a whole length element: the same
three failures, before any check of the distance. -/
def Obligations.DistanceHalfFailures : Prop :=
  ∀ (s : State) (i : Instr) (n w e : Nat) (bits u : List Bool),
    s.Running → s.phase = .symbols → i.layout = .coded .ll n w e → i.isLength = true →
    s.llTable.sound = true → s.dTable.sound = true → encode s i = some bits → s.unread = bits ++ u →
    (∀ (p : List Bool) (b : Bool) (rest : List Bool), u = p ++ b :: rest → s.dTable.leaves p b →
      failsWith .corruptHuffmanCode (step s)) ∧
    (s.dTable.endsInside u → failsWith .unexpectedEndOfStream (step s)) ∧
    (∀ (j : Instr) (m v d : Nat) (c x : List Bool), j.layout = .coded .d m v d → codeword s.dTable m = some c →
      u = c ++ x → x.length < v → failsWith .unexpectedEndOfStream (step s))
end

