-- ==== Sys2Proof/Laws/Memory.lean ====
section
/-! SUPPORT. The laws of a byte space: reading after writing, and the canonical form under every operation. -/

namespace Sys2Proof.Machine

/-- A write is read back. -/
@[simp] theorem Memory.read_write_same (m : Memory) (a : Nat) (b : Byte) : (m.write a b).read a = some b := by
  induction m with
  | nil => simp [Memory.write, Memory.read]
  | cons c m ih =>
    simp only [Memory.write]
    split
    · simp [Memory.read]
    · split
      · simp [Memory.read]
      · have : c.1 ≠ a := by omega
        simp [Memory.read, this, ih]

/-- A write leaves every other address alone. -/
theorem Memory.read_write_other (m : Memory) (a a' : Nat) (b : Byte) (h : a' ≠ a) :
    (m.write a b).read a' = m.read a' := by
  induction m with
  | nil => simp [Memory.write, Memory.read, h.symm]
  | cons c m ih =>
    simp only [Memory.write]
    split
    · simp [Memory.read, h.symm]
    · split
      · next hc => simp [Memory.read, h.symm, ← hc]
      · by_cases hc : c.1 = a' <;> simp [Memory.read, hc, ih]

/-- The addresses of a canonical memory rise from its first one on. -/
theorem Memory.wf_cons (c : Host.Cell) (m : Memory) :
    Memory.wf (c :: m) = true ↔ (∀ d ∈ m.head?, c.1 < d.1) ∧ Memory.wf m = true := by
  cases m <;> simp [Memory.wf]

theorem Memory.head_write (m : Memory) (a : Nat) (b : Byte) :
    ∀ d ∈ (m.write a b).head?, d.1 = a ∨ ∃ c ∈ m.head?, d.1 = c.1 := by
  cases m with
  | nil => simp [Memory.write]
  | cons c m =>
    simp only [Memory.write]
    split
    · simp
    · split <;> simp

/-- A write keeps the canonical form. -/
theorem Memory.wf_write (m : Memory) (a : Nat) (b : Byte) (h : m.wf = true) : (m.write a b).wf = true := by
  induction m with
  | nil => simp [Memory.write, Memory.wf]
  | cons c m ih =>
    simp only [Memory.write]
    split
    · next hac => rw [Memory.wf_cons]; exact ⟨by simpa using hac, h⟩
    · rw [Memory.wf_cons] at h
      split
      · next hac => rw [Memory.wf_cons]; exact ⟨by simpa [hac] using h.1, h.2⟩
      · rw [Memory.wf_cons]
        refine ⟨?_, ih h.2⟩
        intro d hd
        rcases Memory.head_write m a b d hd with h' | ⟨e, he, h'⟩
        · omega
        · have := h.1 e he
          omega

theorem Memory.ofBytesAt_addresses (a : Nat) (bs : List Byte) :
    (Memory.ofBytesAt a bs).map (·.1) = List.range' a bs.length := by
  induction bs generalizing a with
  | nil => rfl
  | cons b bs ih => simp [Memory.ofBytesAt, List.range'_succ, ih]

/-- The host's source lists exactly its own indices (20_memory.md R51). -/
theorem Memory.ofBytes_dense (bs : List Byte) : (Memory.ofBytes bs).dense bs.length = true := by
  simp [Memory.dense, Memory.ofBytes, Memory.ofBytesAt_addresses, List.range_eq_range']

theorem Memory.read_ofBytesAt (a k : Nat) (bs : List Byte) (h : a ≤ k) :
    (Memory.ofBytesAt a bs).read k = bs[k - a]? := by
  induction bs generalizing a with
  | nil => simp [Memory.ofBytesAt, Memory.read]
  | cons b bs ih =>
    by_cases hk : a = k
    · subst hk; simp [Memory.ofBytesAt, Memory.read]
    · have h2 : k - a = k - (a + 1) + 1 := by omega
      simp [Memory.ofBytesAt, Memory.read, hk, ih (a + 1) (by omega), h2]

/-- Reading the host's source is indexing its bytes. -/
@[simp] theorem Memory.read_ofBytes (bs : List Byte) (k : Nat) : (Memory.ofBytes bs).read k = bs[k]? := by
  simp [Memory.ofBytes, Memory.read_ofBytesAt 0 k bs (Nat.zero_le k)]

/-- Addresses in a memory whose addresses are `a`, `a + 1`, and so on. -/
theorem Memory.read_isSome_of_addresses (m : Memory) (a n k : Nat) (h : m.map (·.1) = List.range' a n) :
    (m.read k).isSome = true ↔ a ≤ k ∧ k < a + n := by
  induction m generalizing a n with
  | nil =>
    cases n with
    | zero => simp [Memory.read]
    | succ n => simp [List.range'_succ] at h
  | cons c m ih =>
    cases n with
    | zero => simp at h
    | succ n =>
      simp only [List.map_cons, List.range'_succ, List.cons.injEq] at h
      have := ih (a + 1) n h.2
      by_cases hk : c.1 = k
      · simp [Memory.read, hk]; omega
      · simp only [Memory.read, hk, if_false, this]; omega

/-- A dense memory holds a byte exactly below its length. -/
theorem Memory.dense_read (m : Memory) (n k : Nat) (h : m.dense n = true) : (m.read k).isSome = true ↔ k < n := by
  rw [Memory.read_isSome_of_addresses m 0 n k (by simpa [Memory.dense, List.range_eq_range'] using h)]
  omega

theorem Memory.addresses_write_above (m : Memory) (a : Nat) (b : Byte) (h : ∀ c ∈ m, c.1 < a) :
    m.write a b = m ++ [(a, b)] := by
  induction m with
  | nil => rfl
  | cons c m ih =>
    have hc : c.1 < a := h c (by simp)
    simp [Memory.write, Nat.not_lt.2 hc.le, (Nat.ne_of_lt hc).symm, ih fun d hd => h d (by simp [hd])]

/-- Appending to a dense memory adds its next address at the end. -/
theorem Memory.write_dense (m : Memory) (n : Nat) (b : Byte) (h : m.dense n = true) :
    m.write n b = m ++ [(n, b)] := by
  refine Memory.addresses_write_above m n b fun c hc => ?_
  have : c.1 ∈ m.map (·.1) := List.mem_map_of_mem hc
  simp only [Memory.dense, decide_eq_true_eq] at h
  rw [h] at this
  simpa using this

/-- An append keeps OUT dense (20_memory.md R52). -/
theorem Memory.dense_append (m : Memory) (n : Nat) (b : Byte) (h : m.dense n = true) :
    (m.write n b).dense (n + 1) = true := by
  rw [Memory.write_dense m n b h]
  simp only [Memory.dense, decide_eq_true_eq] at h ⊢
  simp [h, List.range_succ]

theorem Memory.wf_of_addresses (m : Memory) (a n : Nat) (h : m.map (·.1) = List.range' a n) : m.wf = true := by
  induction m generalizing a n with
  | nil => rfl
  | cons c m ih =>
    cases n with
    | zero => simp at h
    | succ n =>
      simp only [List.map_cons, List.range'_succ, List.cons.injEq] at h
      rw [Memory.wf_cons]
      refine ⟨?_, ih (a + 1) n h.2⟩
      cases m with
      | nil => simp
      | cons d m =>
        cases n with
        | zero => simp at h
        | succ n =>
          simp only [List.map_cons, List.range'_succ, List.cons.injEq] at h
          simp [h.1, h.2.1]

/-- A dense memory is canonical. -/
theorem Memory.wf_of_dense (m : Memory) (n : Nat) (h : m.dense n = true) : m.wf = true :=
  Memory.wf_of_addresses m 0 n (by simpa [Memory.dense, List.range_eq_range'] using h)

/-- The host's source is canonical. -/
theorem Memory.wf_ofBytes (bs : List Byte) : (Memory.ofBytes bs).wf = true :=
  Memory.wf_of_dense _ _ (Memory.ofBytes_dense bs)

/-- The memories of the reset state are canonical. -/
theorem State.reset_memories_wf : State.reset.out.wf = true ∧ State.reset.src.wf = true := ⟨rfl, rfl⟩

/-- The append keeps the canonical form of OUT. -/
theorem State.append_wf (b : Byte) (s : State) (h : s.out.wf = true) : (s.append b).out.wf = true :=
  Memory.wf_write s.out s.olen b h

/-- The bytes of a dense memory in order are what it reads as. -/
theorem Memory.dense_bytes (m : Memory) (n : Nat) (h : m.dense n = true) (k : Nat) :
    (m.map (·.2))[k]? = m.read k := by
  have key : ∀ (m : Memory) (a n : Nat), m.map (·.1) = List.range' a n →
      ∀ k, (m.map (·.2))[k]? = m.read (a + k) := by
    intro m
    induction m with
    | nil => intro a n _ k; simp [Memory.read]
    | cons c m ih =>
      intro a n h k
      cases n with
      | zero => simp at h
      | succ n =>
        simp only [List.map_cons, List.range'_succ, List.cons.injEq] at h
        cases k with
        | zero => simp [Memory.read, h.1]
        | succ k =>
          have hne : c.1 ≠ a + (k + 1) := by omega
          have := ih (a + 1) n h.2 k
          simp only [List.map_cons, List.getElem?_cons_succ, Memory.read, hne, if_false, this]
          congr 1
          omega
  have := key m 0 n (by simpa [Memory.dense, List.range_eq_range'] using h) k
  simpa using this

end Sys2Proof.Machine
end

