-- ==== Sys2Proof/Laws/State.lean ====
section
/-! SUPPORT. What each named update of State does to each field, so that no proof unfolds one. -/

namespace Sys2Proof.Machine

/-! `State.raise`. -/

@[simp] theorem State.raise_acc (f : Failure) (s : State) : (s.raise f).acc = s.acc := rfl
@[simp] theorem State.raise_cnt (f : Failure) (s : State) : (s.raise f).cnt = s.cnt := rfl
@[simp] theorem State.raise_pos (f : Failure) (s : State) : (s.raise f).pos = s.pos := rfl
@[simp] theorem State.raise_status (f : Failure) (s : State) : (s.raise f).status = .fault := rfl
@[simp] theorem State.raise_err (f : Failure) (s : State) : (s.raise f).err = some f := rfl
@[simp] theorem State.raise_phase (f : Failure) (s : State) : (s.raise f).phase = .fault := rfl
@[simp] theorem State.raise_bfinal (f : Failure) (s : State) : (s.raise f).bfinal = s.bfinal := rfl
@[simp] theorem State.raise_btype (f : Failure) (s : State) : (s.raise f).btype = s.btype := rfl
@[simp] theorem State.raise_hlit (f : Failure) (s : State) : (s.raise f).hlit = s.hlit := rfl
@[simp] theorem State.raise_hdist (f : Failure) (s : State) : (s.raise f).hdist = s.hdist := rfl
@[simp] theorem State.raise_hclen (f : Failure) (s : State) : (s.raise f).hclen = s.hclen := rfl
@[simp] theorem State.raise_cli (f : Failure) (s : State) : (s.raise f).cli = s.cli := rfl
@[simp] theorem State.raise_idx (f : Failure) (s : State) : (s.raise f).idx = s.idx := rfl
@[simp] theorem State.raise_sym (f : Failure) (s : State) : (s.raise f).sym = s.sym := rfl
@[simp] theorem State.raise_extra (f : Failure) (s : State) : (s.raise f).extra = s.extra := rfl
@[simp] theorem State.raise_rep (f : Failure) (s : State) : (s.raise f).rep = s.rep := rfl
@[simp] theorem State.raise_length (f : Failure) (s : State) : (s.raise f).length = s.length := rfl
@[simp] theorem State.raise_dsym (f : Failure) (s : State) : (s.raise f).dsym = s.dsym := rfl
@[simp] theorem State.raise_distance (f : Failure) (s : State) : (s.raise f).distance = s.distance := rfl
@[simp] theorem State.raise_offset (f : Failure) (s : State) : (s.raise f).offset = s.offset := rfl
@[simp] theorem State.raise_wlen (f : Failure) (s : State) : (s.raise f).wlen = s.wlen := rfl
@[simp] theorem State.raise_wval (f : Failure) (s : State) : (s.raise f).wval = s.wval := rfl
@[simp] theorem State.raise_code (f : Failure) (s : State) : (s.raise f).code = s.code := rfl
@[simp] theorem State.raise_clLen (f : Failure) (s : State) : (s.raise f).clLen = s.clLen := rfl
@[simp] theorem State.raise_clCode (f : Failure) (s : State) : (s.raise f).clCode = s.clCode := rfl
@[simp] theorem State.raise_lens (f : Failure) (s : State) : (s.raise f).lens = s.lens := rfl
@[simp] theorem State.raise_llCode (f : Failure) (s : State) : (s.raise f).llCode = s.llCode := rfl
@[simp] theorem State.raise_dCode (f : Failure) (s : State) : (s.raise f).dCode = s.dCode := rfl
@[simp] theorem State.raise_out (f : Failure) (s : State) : (s.raise f).out = s.out := rfl
@[simp] theorem State.raise_olen (f : Failure) (s : State) : (s.raise f).olen = s.olen := rfl
@[simp] theorem State.raise_src (f : Failure) (s : State) : (s.raise f).src = s.src := rfl
@[simp] theorem State.raise_srcLen (f : Failure) (s : State) : (s.raise f).srcLen = s.srcLen := rfl
@[simp] theorem State.raise_startPos (f : Failure) (s : State) : (s.raise f).startPos = s.startPos := rfl
@[simp] theorem State.raise_outCap (f : Failure) (s : State) : (s.raise f).outCap = s.outCap := rfl
@[simp] theorem State.raise_hostCmd (f : Failure) (s : State) : (s.raise f).hostCmd = s.hostCmd := rfl

/-! `State.append`. -/

@[simp] theorem State.append_acc (b : Byte) (s : State) : (s.append b).acc = s.acc := rfl
@[simp] theorem State.append_cnt (b : Byte) (s : State) : (s.append b).cnt = s.cnt := rfl
@[simp] theorem State.append_pos (b : Byte) (s : State) : (s.append b).pos = s.pos := rfl
@[simp] theorem State.append_status (b : Byte) (s : State) : (s.append b).status = s.status := rfl
@[simp] theorem State.append_err (b : Byte) (s : State) : (s.append b).err = s.err := rfl
@[simp] theorem State.append_phase (b : Byte) (s : State) : (s.append b).phase = s.phase := rfl
@[simp] theorem State.append_bfinal (b : Byte) (s : State) : (s.append b).bfinal = s.bfinal := rfl
@[simp] theorem State.append_btype (b : Byte) (s : State) : (s.append b).btype = s.btype := rfl
@[simp] theorem State.append_hlit (b : Byte) (s : State) : (s.append b).hlit = s.hlit := rfl
@[simp] theorem State.append_hdist (b : Byte) (s : State) : (s.append b).hdist = s.hdist := rfl
@[simp] theorem State.append_hclen (b : Byte) (s : State) : (s.append b).hclen = s.hclen := rfl
@[simp] theorem State.append_cli (b : Byte) (s : State) : (s.append b).cli = s.cli := rfl
@[simp] theorem State.append_idx (b : Byte) (s : State) : (s.append b).idx = s.idx := rfl
@[simp] theorem State.append_sym (b : Byte) (s : State) : (s.append b).sym = s.sym := rfl
@[simp] theorem State.append_extra (b : Byte) (s : State) : (s.append b).extra = s.extra := rfl
@[simp] theorem State.append_rep (b : Byte) (s : State) : (s.append b).rep = s.rep := rfl
@[simp] theorem State.append_length (b : Byte) (s : State) : (s.append b).length = s.length := rfl
@[simp] theorem State.append_dsym (b : Byte) (s : State) : (s.append b).dsym = s.dsym := rfl
@[simp] theorem State.append_distance (b : Byte) (s : State) : (s.append b).distance = s.distance := rfl
@[simp] theorem State.append_offset (b : Byte) (s : State) : (s.append b).offset = s.offset := rfl
@[simp] theorem State.append_wlen (b : Byte) (s : State) : (s.append b).wlen = s.wlen := rfl
@[simp] theorem State.append_wval (b : Byte) (s : State) : (s.append b).wval = s.wval := rfl
@[simp] theorem State.append_code (b : Byte) (s : State) : (s.append b).code = s.code := rfl
@[simp] theorem State.append_clLen (b : Byte) (s : State) : (s.append b).clLen = s.clLen := rfl
@[simp] theorem State.append_clCode (b : Byte) (s : State) : (s.append b).clCode = s.clCode := rfl
@[simp] theorem State.append_lens (b : Byte) (s : State) : (s.append b).lens = s.lens := rfl
@[simp] theorem State.append_llCode (b : Byte) (s : State) : (s.append b).llCode = s.llCode := rfl
@[simp] theorem State.append_dCode (b : Byte) (s : State) : (s.append b).dCode = s.dCode := rfl
@[simp] theorem State.append_out (b : Byte) (s : State) : (s.append b).out = s.out.write s.olen b := rfl
@[simp] theorem State.append_olen (b : Byte) (s : State) : (s.append b).olen = s.olen + 1 := rfl
@[simp] theorem State.append_src (b : Byte) (s : State) : (s.append b).src = s.src := rfl
@[simp] theorem State.append_srcLen (b : Byte) (s : State) : (s.append b).srcLen = s.srcLen := rfl
@[simp] theorem State.append_startPos (b : Byte) (s : State) : (s.append b).startPos = s.startPos := rfl
@[simp] theorem State.append_outCap (b : Byte) (s : State) : (s.append b).outCap = s.outCap := rfl
@[simp] theorem State.append_hostCmd (b : Byte) (s : State) : (s.append b).hostCmd = s.hostCmd := rfl

/-! `State.advance`. -/

@[simp] theorem State.advance_acc (s : State) (n : Nat) : (s.advance n).acc = BitVec.ofNat 24 (((s.src.read ((s.bitpos + n + 7) / 8 - 1)).getD 0).toNat >>> (8 - (8 * ((s.bitpos + n + 7) / 8) - (s.bitpos + n)))) := rfl
@[simp] theorem State.advance_cnt (s : State) (n : Nat) : (s.advance n).cnt = 8 * ((s.bitpos + n + 7) / 8) - (s.bitpos + n) := rfl
@[simp] theorem State.advance_pos (s : State) (n : Nat) : (s.advance n).pos = (s.bitpos + n + 7) / 8 := rfl
@[simp] theorem State.advance_status (s : State) (n : Nat) : (s.advance n).status = s.status := rfl
@[simp] theorem State.advance_err (s : State) (n : Nat) : (s.advance n).err = s.err := rfl
@[simp] theorem State.advance_phase (s : State) (n : Nat) : (s.advance n).phase = s.phase := rfl
@[simp] theorem State.advance_bfinal (s : State) (n : Nat) : (s.advance n).bfinal = s.bfinal := rfl
@[simp] theorem State.advance_btype (s : State) (n : Nat) : (s.advance n).btype = s.btype := rfl
@[simp] theorem State.advance_hlit (s : State) (n : Nat) : (s.advance n).hlit = s.hlit := rfl
@[simp] theorem State.advance_hdist (s : State) (n : Nat) : (s.advance n).hdist = s.hdist := rfl
@[simp] theorem State.advance_hclen (s : State) (n : Nat) : (s.advance n).hclen = s.hclen := rfl
@[simp] theorem State.advance_cli (s : State) (n : Nat) : (s.advance n).cli = s.cli := rfl
@[simp] theorem State.advance_idx (s : State) (n : Nat) : (s.advance n).idx = s.idx := rfl
@[simp] theorem State.advance_sym (s : State) (n : Nat) : (s.advance n).sym = s.sym := rfl
@[simp] theorem State.advance_extra (s : State) (n : Nat) : (s.advance n).extra = s.extra := rfl
@[simp] theorem State.advance_rep (s : State) (n : Nat) : (s.advance n).rep = s.rep := rfl
@[simp] theorem State.advance_length (s : State) (n : Nat) : (s.advance n).length = s.length := rfl
@[simp] theorem State.advance_dsym (s : State) (n : Nat) : (s.advance n).dsym = s.dsym := rfl
@[simp] theorem State.advance_distance (s : State) (n : Nat) : (s.advance n).distance = s.distance := rfl
@[simp] theorem State.advance_offset (s : State) (n : Nat) : (s.advance n).offset = s.offset := rfl
@[simp] theorem State.advance_wlen (s : State) (n : Nat) : (s.advance n).wlen = s.wlen := rfl
@[simp] theorem State.advance_wval (s : State) (n : Nat) : (s.advance n).wval = s.wval := rfl
@[simp] theorem State.advance_code (s : State) (n : Nat) : (s.advance n).code = s.code := rfl
@[simp] theorem State.advance_clLen (s : State) (n : Nat) : (s.advance n).clLen = s.clLen := rfl
@[simp] theorem State.advance_clCode (s : State) (n : Nat) : (s.advance n).clCode = s.clCode := rfl
@[simp] theorem State.advance_lens (s : State) (n : Nat) : (s.advance n).lens = s.lens := rfl
@[simp] theorem State.advance_llCode (s : State) (n : Nat) : (s.advance n).llCode = s.llCode := rfl
@[simp] theorem State.advance_dCode (s : State) (n : Nat) : (s.advance n).dCode = s.dCode := rfl
@[simp] theorem State.advance_out (s : State) (n : Nat) : (s.advance n).out = s.out := rfl
@[simp] theorem State.advance_olen (s : State) (n : Nat) : (s.advance n).olen = s.olen := rfl
@[simp] theorem State.advance_src (s : State) (n : Nat) : (s.advance n).src = s.src := rfl
@[simp] theorem State.advance_srcLen (s : State) (n : Nat) : (s.advance n).srcLen = s.srcLen := rfl
@[simp] theorem State.advance_startPos (s : State) (n : Nat) : (s.advance n).startPos = s.startPos := rfl
@[simp] theorem State.advance_outCap (s : State) (n : Nat) : (s.advance n).outCap = s.outCap := rfl
@[simp] theorem State.advance_hostCmd (s : State) (n : Nat) : (s.advance n).hostCmd = s.hostCmd := rfl

/-! `hostReset`. -/

@[simp] theorem hostReset_acc (s : State) : (hostReset s).acc = 0 := rfl
@[simp] theorem hostReset_cnt (s : State) : (hostReset s).cnt = 0 := rfl
@[simp] theorem hostReset_pos (s : State) : (hostReset s).pos = 0 := rfl
@[simp] theorem hostReset_status (s : State) : (hostReset s).status = .idle := rfl
@[simp] theorem hostReset_err (s : State) : (hostReset s).err = none := rfl
@[simp] theorem hostReset_phase (s : State) : (hostReset s).phase = .idle := rfl
@[simp] theorem hostReset_bfinal (s : State) : (hostReset s).bfinal = s.bfinal := rfl
@[simp] theorem hostReset_btype (s : State) : (hostReset s).btype = s.btype := rfl
@[simp] theorem hostReset_hlit (s : State) : (hostReset s).hlit = s.hlit := rfl
@[simp] theorem hostReset_hdist (s : State) : (hostReset s).hdist = s.hdist := rfl
@[simp] theorem hostReset_hclen (s : State) : (hostReset s).hclen = s.hclen := rfl
@[simp] theorem hostReset_cli (s : State) : (hostReset s).cli = s.cli := rfl
@[simp] theorem hostReset_idx (s : State) : (hostReset s).idx = s.idx := rfl
@[simp] theorem hostReset_sym (s : State) : (hostReset s).sym = s.sym := rfl
@[simp] theorem hostReset_extra (s : State) : (hostReset s).extra = s.extra := rfl
@[simp] theorem hostReset_rep (s : State) : (hostReset s).rep = s.rep := rfl
@[simp] theorem hostReset_length (s : State) : (hostReset s).length = s.length := rfl
@[simp] theorem hostReset_dsym (s : State) : (hostReset s).dsym = s.dsym := rfl
@[simp] theorem hostReset_distance (s : State) : (hostReset s).distance = s.distance := rfl
@[simp] theorem hostReset_offset (s : State) : (hostReset s).offset = s.offset := rfl
@[simp] theorem hostReset_wlen (s : State) : (hostReset s).wlen = s.wlen := rfl
@[simp] theorem hostReset_wval (s : State) : (hostReset s).wval = s.wval := rfl
@[simp] theorem hostReset_code (s : State) : (hostReset s).code = s.code := rfl
@[simp] theorem hostReset_clLen (s : State) : (hostReset s).clLen = s.clLen := rfl
@[simp] theorem hostReset_clCode (s : State) : (hostReset s).clCode = s.clCode := rfl
@[simp] theorem hostReset_lens (s : State) : (hostReset s).lens = s.lens := rfl
@[simp] theorem hostReset_llCode (s : State) : (hostReset s).llCode = s.llCode := rfl
@[simp] theorem hostReset_dCode (s : State) : (hostReset s).dCode = s.dCode := rfl
@[simp] theorem hostReset_out (s : State) : (hostReset s).out = [] := rfl
@[simp] theorem hostReset_olen (s : State) : (hostReset s).olen = 0 := rfl
@[simp] theorem hostReset_src (s : State) : (hostReset s).src = s.src := rfl
@[simp] theorem hostReset_srcLen (s : State) : (hostReset s).srcLen = s.srcLen := rfl
@[simp] theorem hostReset_startPos (s : State) : (hostReset s).startPos = s.startPos := rfl
@[simp] theorem hostReset_outCap (s : State) : (hostReset s).outCap = s.outCap := rfl
@[simp] theorem hostReset_hostCmd (s : State) : (hostReset s).hostCmd = none := rfl

/-! `sessionStart`. -/

@[simp] theorem sessionStart_acc (src : List Byte) (p : Nat) (cap : Option Nat) (s : State) : (sessionStart src p cap s).acc = 0 := rfl
@[simp] theorem sessionStart_cnt (src : List Byte) (p : Nat) (cap : Option Nat) (s : State) : (sessionStart src p cap s).cnt = 0 := rfl
@[simp] theorem sessionStart_pos (src : List Byte) (p : Nat) (cap : Option Nat) (s : State) : (sessionStart src p cap s).pos = p := rfl
@[simp] theorem sessionStart_status (src : List Byte) (p : Nat) (cap : Option Nat) (s : State) : (sessionStart src p cap s).status = .busy := rfl
@[simp] theorem sessionStart_err (src : List Byte) (p : Nat) (cap : Option Nat) (s : State) : (sessionStart src p cap s).err = none := rfl
@[simp] theorem sessionStart_phase (src : List Byte) (p : Nat) (cap : Option Nat) (s : State) : (sessionStart src p cap s).phase = .blockHdr := rfl
@[simp] theorem sessionStart_bfinal (src : List Byte) (p : Nat) (cap : Option Nat) (s : State) : (sessionStart src p cap s).bfinal = s.bfinal := rfl
@[simp] theorem sessionStart_btype (src : List Byte) (p : Nat) (cap : Option Nat) (s : State) : (sessionStart src p cap s).btype = s.btype := rfl
@[simp] theorem sessionStart_hlit (src : List Byte) (p : Nat) (cap : Option Nat) (s : State) : (sessionStart src p cap s).hlit = s.hlit := rfl
@[simp] theorem sessionStart_hdist (src : List Byte) (p : Nat) (cap : Option Nat) (s : State) : (sessionStart src p cap s).hdist = s.hdist := rfl
@[simp] theorem sessionStart_hclen (src : List Byte) (p : Nat) (cap : Option Nat) (s : State) : (sessionStart src p cap s).hclen = s.hclen := rfl
@[simp] theorem sessionStart_cli (src : List Byte) (p : Nat) (cap : Option Nat) (s : State) : (sessionStart src p cap s).cli = s.cli := rfl
@[simp] theorem sessionStart_idx (src : List Byte) (p : Nat) (cap : Option Nat) (s : State) : (sessionStart src p cap s).idx = s.idx := rfl
@[simp] theorem sessionStart_sym (src : List Byte) (p : Nat) (cap : Option Nat) (s : State) : (sessionStart src p cap s).sym = s.sym := rfl
@[simp] theorem sessionStart_extra (src : List Byte) (p : Nat) (cap : Option Nat) (s : State) : (sessionStart src p cap s).extra = s.extra := rfl
@[simp] theorem sessionStart_rep (src : List Byte) (p : Nat) (cap : Option Nat) (s : State) : (sessionStart src p cap s).rep = s.rep := rfl
@[simp] theorem sessionStart_length (src : List Byte) (p : Nat) (cap : Option Nat) (s : State) : (sessionStart src p cap s).length = s.length := rfl
@[simp] theorem sessionStart_dsym (src : List Byte) (p : Nat) (cap : Option Nat) (s : State) : (sessionStart src p cap s).dsym = s.dsym := rfl
@[simp] theorem sessionStart_distance (src : List Byte) (p : Nat) (cap : Option Nat) (s : State) : (sessionStart src p cap s).distance = s.distance := rfl
@[simp] theorem sessionStart_offset (src : List Byte) (p : Nat) (cap : Option Nat) (s : State) : (sessionStart src p cap s).offset = s.offset := rfl
@[simp] theorem sessionStart_wlen (src : List Byte) (p : Nat) (cap : Option Nat) (s : State) : (sessionStart src p cap s).wlen = 0 := rfl
@[simp] theorem sessionStart_wval (src : List Byte) (p : Nat) (cap : Option Nat) (s : State) : (sessionStart src p cap s).wval = 0 := rfl
@[simp] theorem sessionStart_code (src : List Byte) (p : Nat) (cap : Option Nat) (s : State) : (sessionStart src p cap s).code = s.code := rfl
@[simp] theorem sessionStart_clLen (src : List Byte) (p : Nat) (cap : Option Nat) (s : State) : (sessionStart src p cap s).clLen = s.clLen := rfl
@[simp] theorem sessionStart_clCode (src : List Byte) (p : Nat) (cap : Option Nat) (s : State) : (sessionStart src p cap s).clCode = s.clCode := rfl
@[simp] theorem sessionStart_lens (src : List Byte) (p : Nat) (cap : Option Nat) (s : State) : (sessionStart src p cap s).lens = s.lens := rfl
@[simp] theorem sessionStart_llCode (src : List Byte) (p : Nat) (cap : Option Nat) (s : State) : (sessionStart src p cap s).llCode = s.llCode := rfl
@[simp] theorem sessionStart_dCode (src : List Byte) (p : Nat) (cap : Option Nat) (s : State) : (sessionStart src p cap s).dCode = s.dCode := rfl
@[simp] theorem sessionStart_out (src : List Byte) (p : Nat) (cap : Option Nat) (s : State) : (sessionStart src p cap s).out = [] := rfl
@[simp] theorem sessionStart_olen (src : List Byte) (p : Nat) (cap : Option Nat) (s : State) : (sessionStart src p cap s).olen = 0 := rfl
@[simp] theorem sessionStart_src (src : List Byte) (p : Nat) (cap : Option Nat) (s : State) : (sessionStart src p cap s).src = Memory.ofBytes src := rfl
@[simp] theorem sessionStart_srcLen (src : List Byte) (p : Nat) (cap : Option Nat) (s : State) : (sessionStart src p cap s).srcLen = src.length := rfl
@[simp] theorem sessionStart_startPos (src : List Byte) (p : Nat) (cap : Option Nat) (s : State) : (sessionStart src p cap s).startPos = p := rfl
@[simp] theorem sessionStart_outCap (src : List Byte) (p : Nat) (cap : Option Nat) (s : State) : (sessionStart src p cap s).outCap = cap := rfl
@[simp] theorem sessionStart_hostCmd (src : List Byte) (p : Nat) (cap : Option Nat) (s : State) : (sessionStart src p cap s).hostCmd = none := rfl

/-! Derived quantities under these updates. -/

@[simp] theorem State.raise_bitpos (f : Failure) (s : State) : (s.raise f).bitpos = s.bitpos := rfl
@[simp] theorem State.append_bitpos (b : Byte) (s : State) : (s.append b).bitpos = s.bitpos := rfl
@[simp] theorem State.advance_total (s : State) (n : Nat) : (s.advance n).total = s.total := rfl
@[simp] theorem State.advance_ncl (s : State) (n : Nat) : (s.advance n).ncl = s.ncl := rfl
@[simp] theorem State.advance_streamBit (s : State) (n k : Nat) : (s.advance n).streamBit k = s.streamBit k := rfl
@[simp] theorem State.advance_clTable (s : State) (n : Nat) : (s.advance n).clTable = s.clTable := rfl
@[simp] theorem State.advance_llTable (s : State) (n : Nat) : (s.advance n).llTable = s.llTable := rfl
@[simp] theorem State.advance_dTable (s : State) (n : Nat) : (s.advance n).dTable = s.dTable := rfl

/-- The bit position after `n` bits. -/
@[simp] theorem State.advance_bitpos (s : State) (n : Nat) : (s.advance n).bitpos = s.bitpos + n := by
  simp only [State.bitpos, State.advance_pos, State.advance_cnt]
  omega

/-- Advancing twice is advancing once by both amounts. -/
theorem State.advance_advance (s : State) (m n : Nat) : (s.advance m).advance n = s.advance (m + n) := by
  have h : (s.advance m).bitpos + n = s.bitpos + (m + n) := by
    rw [State.advance_bitpos]; omega
  simp only [State.advance, h] at *

/-- The unread bits after `n` of them. -/
theorem State.advance_unread (s : State) (n : Nat) : (s.advance n).unread = s.unread.drop n := by
  apply List.ext_getElem
  · simp [State.unread]; omega
  · intro i h1 h2
    simp [State.unread, Nat.add_assoc]

end Sys2Proof.Machine
end

