-- ==== Sys2Proof/Laws/Reads.lean ====
section
/-! SUPPORT. Sequencing of micro-operations taken apart, and what the bit reader, the symbol decoder and the element decoder can do:
a successful read changes the BitCursor (and empties the walk) and nothing else; a failing one does no more before it raises. -/

namespace Sys2Proof.Machine

/-! Sequencing. -/

theorem Res.bind_eq_ok {α β : Type} {r : Res α} {f : α → State → Res β} {v : β} {t : State} :
    r.bind f = .ok v t ↔ ∃ x s, r = .ok x s ∧ f x s = .ok v t := by
  cases r <;> simp [Res.bind]

theorem Res.bind_eq_raised {α β : Type} {r : Res α} {f : α → State → Res β} {t : State} :
    r.bind f = .raised t ↔ r = .raised t ∨ ∃ x s, r = .ok x s ∧ f x s = .raised t := by
  cases r <;> simp [Res.bind]

theorem Res.bind_eq_stop {α β : Type} {r : Res α} {f : α → State → Res β} {x : Fault} :
    r.bind f = .stop x ↔ r = .stop x ∨ ∃ y s, r = .ok y s ∧ f y s = .stop x := by
  cases r <;> simp [Res.bind]

theorem Res.bind_eq_refuse {α β : Type} {r : Res α} {f : α → State → Res β} {x : Refusal} :
    r.bind f = .refuse x ↔ r = .refuse x ∨ ∃ y s, r = .ok y s ∧ f y s = .refuse x := by
  cases r <;> simp [Res.bind]

theorem Res.finish_eq_next {α : Type} {r : Res α} {f : α → State → Host.Outcome State Fault Refusal} {t : State} :
    r.finish f = .next t ↔ r = .raised t ∨ ∃ x s, r = .ok x s ∧ f x s = .next t := by
  cases r <;> simp [Res.finish]

@[simp] theorem Res.bind_ok {α β : Type} (v : α) (s : State) (f : α → State → Res β) :
    (Res.ok v s).bind f = f v s := rfl
@[simp] theorem Res.bind_raised {α β : Type} (s : State) (f : α → State → Res β) :
    (Res.raised s).bind f = .raised s := rfl
@[simp] theorem Res.finish_ok {α : Type} (v : α) (s : State) (f : α → State → Host.Outcome State Fault Refusal) :
    (Res.ok v s).finish f = f v s := rfl
@[simp] theorem Res.finish_raised {α : Type} (s : State) (f : α → State → Host.Outcome State Fault Refusal) :
    (Res.raised s).finish f = .next s := rfl

/-! Which registers a read may touch. -/

/-- `t` is `s` but for the BitCursor. -/
def CursorOnly (s t : State) : Prop := ∃ acc cnt pos, t = { s with acc := acc, cnt := cnt, pos := pos }

/-- `t` is `s` but for the BitCursor and the walk. -/
def WalkOnly (s t : State) : Prop :=
  ∃ acc cnt pos wlen wval, t = { s with acc := acc, cnt := cnt, pos := pos, wlen := wlen, wval := wval }

theorem CursorOnly.refl (s : State) : CursorOnly s s := ⟨s.acc, s.cnt, s.pos, rfl⟩

theorem CursorOnly.trans {s t u : State} (h : CursorOnly s t) (h' : CursorOnly t u) : CursorOnly s u := by
  obtain ⟨a, c, p, rfl⟩ := h
  obtain ⟨a', c', p', rfl⟩ := h'
  exact ⟨a', c', p', rfl⟩

theorem CursorOnly.walkOnly {s t : State} (h : CursorOnly s t) : WalkOnly s t := by
  obtain ⟨a, c, p, rfl⟩ := h
  exact ⟨a, c, p, s.wlen, s.wval, rfl⟩

theorem WalkOnly.refl (s : State) : WalkOnly s s := (CursorOnly.refl s).walkOnly

theorem WalkOnly.trans {s t u : State} (h : WalkOnly s t) (h' : WalkOnly t u) : WalkOnly s u := by
  obtain ⟨a, c, p, l, v, rfl⟩ := h
  obtain ⟨a', c', p', l', v', rfl⟩ := h'
  exact ⟨a', c', p', l', v', rfl⟩

/-! The bit reader. -/

/-- FETCH answers the byte at `pos`. -/
theorem fetchByte_ok {s t : State} {b : Byte} (h : fetchByte s = .ok b t) :
    s.pos < s.srcLen ∧ s.src.read s.pos = some b ∧ t = { s with pos := s.pos + 1 } := by
  unfold fetchByte at h
  split at h
  · cases h
  · split at h
    · cases h
    · next hb => cases h; exact ⟨by omega, hb, rfl⟩

/-- FETCH raises at the end of the source only. -/
theorem fetchByte_raised {s t : State} (h : fetchByte s = .raised t) :
    s.srcLen ≤ s.pos ∧ t = s.raise .unexpectedEndOfStream := by
  unfold fetchByte at h
  split at h
  · next hp => cases h; exact ⟨hp, rfl⟩
  · split at h <;> cases h

/-- FETCH stops for a byte SRC does not list, and never refuses. -/
theorem fetchByte_stop {s : State} {x : Fault} (h : fetchByte s = .stop x) :
    x = .srcByteAbsent ∧ s.pos < s.srcLen ∧ s.src.read s.pos = none := by
  unfold fetchByte at h
  split at h
  · cases h
  · split at h
    · next hb => cases h; exact ⟨rfl, by omega, hb⟩
    · cases h

theorem fetchByte_refuse {s : State} {x : Refusal} (h : fetchByte s = .refuse x) : False := by
  unfold fetchByte at h
  split at h
  · cases h
  · split at h <;> cases h

/-- One turn of the refill loop. -/
theorem refill_succ (n k : Nat) (s : State) :
    refill n (k + 1) s =
      if s.cnt < n then
        (fetchByte s).bind fun b s =>
          refill n k { s with acc := s.acc ||| (b.setWidth 24 <<< s.cnt), cnt := s.cnt + 8 }
      else .ok () s := rfl

/-- The refill loop touches the BitCursor alone, and ends with enough bits where it had enough turns. -/
theorem refill_ok {n k : Nat} {s t : State} {u : Unit} (h : refill n k s = .ok u t) :
    CursorOnly s t ∧ (n ≤ s.cnt + 8 * k → n ≤ t.cnt) := by
  induction k generalizing s with
  | zero => cases h; exact ⟨CursorOnly.refl _, by omega⟩
  | succ k ih =>
    rw [refill_succ] at h
    split at h
    · obtain ⟨b, s', hb, h⟩ := Res.bind_eq_ok.1 h
      obtain ⟨-, -, rfl⟩ := fetchByte_ok hb
      obtain ⟨hc, hn⟩ := ih h
      refine ⟨CursorOnly.trans ⟨_, _, _, rfl⟩ hc, fun hk => hn ?_⟩
      show n ≤ s.cnt + 8 + 8 * k
      omega
    · cases h; exact ⟨CursorOnly.refl _, by omega⟩

/-- A refill that fails raises UnexpectedEndOfStream and has touched the BitCursor alone. -/
theorem refill_raised {n k : Nat} {s t : State} (h : refill n k s = .raised t) :
    ∃ s', CursorOnly s s' ∧ t = s'.raise .unexpectedEndOfStream := by
  induction k generalizing s with
  | zero => cases h
  | succ k ih =>
    rw [refill_succ] at h
    split at h
    · rcases Res.bind_eq_raised.1 h with h | ⟨b, s', hb, h⟩
      · exact ⟨s, CursorOnly.refl s, (fetchByte_raised h).2⟩
      · obtain ⟨-, -, rfl⟩ := fetchByte_ok hb
        obtain ⟨s', hc, rfl⟩ := ih h
        exact ⟨s', CursorOnly.trans ⟨_, _, _, rfl⟩ hc, rfl⟩
    · cases h

/-- A peek within the admitted width is the refill and the low bits. -/
theorem peekBits_eq (n : Nat) (s : State) (h : n ≤ 16) :
    peekBits n s = (refill n n s).bind fun _ s => .ok (s.acc.toNat % 2 ^ n) s := by
  have : ¬ Config.readMax < n := by simp [Config.readMax]; omega
  simp [peekBits, this]

theorem peekBits_ok {n v : Nat} {s t : State} (h : peekBits n s = .ok v t) :
    n ≤ 16 ∧ CursorOnly s t ∧ n ≤ t.cnt ∧ v = t.acc.toNat % 2 ^ n := by
  unfold peekBits at h
  split at h
  · cases h
  · next hn =>
    obtain ⟨u, s', hr, h⟩ := Res.bind_eq_ok.1 h
    cases h
    obtain ⟨hc, hle⟩ := refill_ok hr
    exact ⟨by simp [Config.readMax] at hn; omega, hc, hle (by omega), rfl⟩

theorem peekBits_raised {n : Nat} {s t : State} (h : peekBits n s = .raised t) :
    ∃ s', CursorOnly s s' ∧ t = s'.raise .unexpectedEndOfStream := by
  unfold peekBits at h
  split at h
  · cases h
  · rcases Res.bind_eq_raised.1 h with h | ⟨u, s', -, h⟩
    · exact refill_raised h
    · cases h

/-- A read touches the BitCursor alone, and its value fits `n` bits. -/
theorem readBits_ok {n v : Nat} {s t : State} (h : readBits n s = .ok v t) :
    n ≤ 16 ∧ CursorOnly s t ∧ v < 2 ^ n := by
  obtain ⟨v', s', hp, h⟩ := Res.bind_eq_ok.1 h
  cases h
  obtain ⟨hn, hc, -, rfl⟩ := peekBits_ok hp
  exact ⟨hn, hc.trans ⟨_, _, _, rfl⟩, Nat.mod_lt _ (Nat.two_pow_pos n)⟩

theorem readBits_raised {n : Nat} {s t : State} (h : readBits n s = .raised t) :
    ∃ s', CursorOnly s s' ∧ t = s'.raise .unexpectedEndOfStream := by
  rcases Res.bind_eq_raised.1 h with h | ⟨v, s', -, h⟩
  · exact peekBits_raised h
  · cases h

/-! The symbol decoder. -/

/-- One turn of the walk. -/
theorem walkSym_succ (t : CodeTable) (k : Nat) (s : State) :
    walkSym t (k + 1) s =
      (readBits 1 s).bind fun b s =>
        match t.symbolOf (s.wlen + 1) (s.wval <<< 1 ||| b) with
        | some x => .ok x { s with wlen := 0, wval := 0 }
        | none =>
          if t.pending (s.wlen + 1) (s.wval <<< 1 ||| b) then
            walkSym t k { s with wlen := s.wlen + 1, wval := s.wval <<< 1 ||| b }
          else
            .raised (State.raise .corruptHuffmanCode
              { s with wlen := s.wlen + 1, wval := s.wval <<< 1 ||| b }) := rfl

/-- A symbol that is found is one of the table's, and the walk is empty again. -/
theorem walkSym_ok {tb : CodeTable} {k x : Nat} {s t : State} (h : walkSym tb k s = .ok x t) :
    WalkOnly s t ∧ t.wlen = 0 ∧ t.wval = 0 ∧ x < tb.length := by
  induction k generalizing s with
  | zero => cases h
  | succ k ih =>
    rw [walkSym_succ] at h
    obtain ⟨b, s', hb, h⟩ := Res.bind_eq_ok.1 h
    obtain ⟨-, hc, -⟩ := readBits_ok hb
    split at h
    · next x' hx =>
      cases h
      refine ⟨hc.walkOnly.trans ⟨_, _, _, _, _, rfl⟩, rfl, rfl, ?_⟩
      have := List.findIdx?_eq_some_iff_getElem.1 hx
      exact this.1
    · split at h
      · obtain ⟨hw, h1, h2, h3⟩ := ih h
        exact ⟨hc.walkOnly.trans (WalkOnly.trans ⟨_, _, _, _, _, rfl⟩ hw), h1, h2, h3⟩
      · cases h

/-- A walk that fails has touched the BitCursor and the walk alone. -/
theorem walkSym_raised {tb : CodeTable} {k : Nat} {s t : State} (h : walkSym tb k s = .raised t) :
    ∃ s', WalkOnly s s' ∧
      (t = s'.raise .unexpectedEndOfStream ∨ t = s'.raise .corruptHuffmanCode) := by
  induction k generalizing s with
  | zero => cases h; exact ⟨s, WalkOnly.refl s, .inr rfl⟩
  | succ k ih =>
    rw [walkSym_succ] at h
    rcases Res.bind_eq_raised.1 h with h | ⟨b, s', hb, h⟩
    · obtain ⟨s', hc, rfl⟩ := readBits_raised h
      exact ⟨s', hc.walkOnly, .inl rfl⟩
    · obtain ⟨-, hc, -⟩ := readBits_ok hb
      split at h
      · cases h
      · split at h
        · obtain ⟨u, hw, hu⟩ := ih h
          exact ⟨u, hc.walkOnly.trans (WalkOnly.trans ⟨_, _, _, _, _, rfl⟩ hw), hu⟩
        · cases h
          exact ⟨_, hc.walkOnly.trans ⟨_, _, _, _, _, rfl⟩, .inr rfl⟩

theorem decodeSym_ok {tb : CodeTable} {x : Nat} {s t : State} (h : decodeSym tb s = .ok x t) :
    WalkOnly s t ∧ t.wlen = 0 ∧ t.wval = 0 ∧ x < tb.length := by
  obtain ⟨hw, h⟩ := walkSym_ok h
  exact ⟨WalkOnly.trans ⟨_, _, _, _, _, rfl⟩ hw, h⟩

theorem decodeSym_raised {tb : CodeTable} {s t : State} (h : decodeSym tb s = .raised t) :
    ∃ s', WalkOnly s s' ∧
      (t = s'.raise .unexpectedEndOfStream ∨ t = s'.raise .corruptHuffmanCode) := by
  obtain ⟨s', hw, h⟩ := walkSym_raised h
  exact ⟨s', WalkOnly.trans ⟨_, _, _, _, _, rfl⟩ hw, h⟩

/-! The alphabets are as large as their tables (10_state.md R32 to R35). -/

@[simp] theorem State.clTable_length (s : State) : s.clTable.length = 19 := by
  simp [State.clTable, State.clLens]

theorem State.nlit_le (s : State) : s.nlit ≤ 288 := by
  have := s.hlit.isLt
  simp only [State.nlit]; omega

theorem State.ndist_le (s : State) : s.ndist ≤ 32 := by
  have := s.hdist.isLt
  simp only [State.ndist]; omega

theorem State.ncl_le (s : State) : s.ncl ≤ 19 := by
  have := s.hclen.isLt
  simp only [State.ncl]; omega

theorem State.total_le (s : State) : s.total ≤ 320 := by
  have := s.nlit_le
  have := s.ndist_le
  simp only [State.total]; omega

@[simp] theorem State.llLens_length (s : State) : s.llLens.length = s.nlit := by
  have := s.nlit_le
  simp [State.llLens]; omega

@[simp] theorem State.dLens_length (s : State) : s.dLens.length = s.ndist := by
  have := s.nlit_le
  have := s.ndist_le
  simp [State.dLens]; omega

@[simp] theorem State.llTable_length (s : State) : s.llTable.length = s.nlit := by
  have := s.nlit_le
  simp [State.llTable]; omega

@[simp] theorem State.dTable_length (s : State) : s.dTable.length = s.ndist := by
  have := s.ndist_le
  simp [State.dTable]; omega

/-! The element decoder. -/

/-- An element that is read has changed the BitCursor and the walk alone. -/
theorem fetchDist_ok {s t : State} {j : Instr} (h : fetchDist s = .ok j t) : WalkOnly s t := by
  obtain ⟨m, s', hm, h⟩ := Res.bind_eq_ok.1 h
  obtain ⟨e, s'', he, h⟩ := Res.bind_eq_ok.1 h
  unfold answer at h
  split at h
  · cases h
    exact (decodeSym_ok hm).1.trans (readBits_ok he).2.1.walkOnly
  · cases h

theorem fetchElement_ok {s t : State} {i : Instr} (h : fetchElement s = .ok i t) : WalkOnly s t := by
  unfold fetchElement at h
  split at h
  · obtain ⟨f, s1, h1, h⟩ := Res.bind_eq_ok.1 h
    obtain ⟨b, s2, h2, h⟩ := Res.bind_eq_ok.1 h
    cases h
    exact ((readBits_ok h1).2.1.trans (readBits_ok h2).2.1).walkOnly
  · obtain ⟨f, s1, h1, h⟩ := Res.bind_eq_ok.1 h
    obtain ⟨b, s2, h2, h⟩ := Res.bind_eq_ok.1 h
    obtain ⟨c, s3, h3, h⟩ := Res.bind_eq_ok.1 h
    cases h
    exact (((readBits_ok h1).2.1.trans (readBits_ok h2).2.1).trans (readBits_ok h3).2.1).walkOnly
  · obtain ⟨f, s1, h1, h⟩ := Res.bind_eq_ok.1 h
    cases h
    exact (readBits_ok h1).2.1.walkOnly
  · obtain ⟨m, s', hm, h⟩ := Res.bind_eq_ok.1 h
    split at h
    · cases h
    · obtain ⟨e, s'', he, h⟩ := Res.bind_eq_ok.1 h
      unfold answer at h
      split at h
      · cases h
        exact (decodeSym_ok hm).1.trans (readBits_ok he).2.1.walkOnly
      · cases h
  · obtain ⟨m, s', hm, h⟩ := Res.bind_eq_ok.1 h
    obtain ⟨e, s'', he, h⟩ := Res.bind_eq_ok.1 h
    unfold answer at h
    split at h
    · cases h
      exact (decodeSym_ok hm).1.trans (readBits_ok he).2.1.walkOnly
    · cases h
  all_goals cases h

/-- A distance element that cannot be read raises, with the BitCursor and the walk alone changed before. -/
theorem fetchDist_raised {s t : State} (h : fetchDist s = .raised t) :
    ∃ s' f, WalkOnly s s' ∧ t = s'.raise f := by
  rcases Res.bind_eq_raised.1 h with h | ⟨m, s', hm, h⟩
  · obtain ⟨s', hw, h | h⟩ := decodeSym_raised h <;> exact ⟨s', _, hw, h⟩
  · rcases Res.bind_eq_raised.1 h with h | ⟨e, s'', he, h⟩
    · obtain ⟨u, hc, h⟩ := readBits_raised h
      exact ⟨u, _, (decodeSym_ok hm).1.trans hc.walkOnly, h⟩
    · unfold answer at h; split at h <;> cases h

/-- An element that cannot be read raises, with the BitCursor and the walk alone changed before. -/
theorem fetchElement_raised {s t : State} (h : fetchElement s = .raised t) :
    ∃ s' f, WalkOnly s s' ∧ t = s'.raise f := by
  unfold fetchElement at h
  split at h
  · rcases Res.bind_eq_raised.1 h with h | ⟨f, s1, h1, h⟩
    · obtain ⟨u, hc, h⟩ := readBits_raised h
      exact ⟨u, _, hc.walkOnly, h⟩
    · rcases Res.bind_eq_raised.1 h with h | ⟨b, s2, h2, h⟩
      · obtain ⟨u, hc, h⟩ := readBits_raised h
        exact ⟨u, _, ((readBits_ok h1).2.1.trans hc).walkOnly, h⟩
      · cases h
  · rcases Res.bind_eq_raised.1 h with h | ⟨f, s1, h1, h⟩
    · obtain ⟨u, hc, h⟩ := readBits_raised h
      exact ⟨u, _, hc.walkOnly, h⟩
    · rcases Res.bind_eq_raised.1 h with h | ⟨b, s2, h2, h⟩
      · obtain ⟨u, hc, h⟩ := readBits_raised h
        exact ⟨u, _, ((readBits_ok h1).2.1.trans hc).walkOnly, h⟩
      · rcases Res.bind_eq_raised.1 h with h | ⟨c, s3, h3, h⟩
        · obtain ⟨u, hc, h⟩ := readBits_raised h
          exact ⟨u, _, (((readBits_ok h1).2.1.trans (readBits_ok h2).2.1).trans hc).walkOnly, h⟩
        · cases h
  · rcases Res.bind_eq_raised.1 h with h | ⟨f, s1, h1, h⟩
    · obtain ⟨u, hc, h⟩ := readBits_raised h
      exact ⟨u, _, hc.walkOnly, h⟩
    · cases h
  · rcases Res.bind_eq_raised.1 h with h | ⟨m, s', hm, h⟩
    · obtain ⟨s', hw, h | h⟩ := decodeSym_raised h <;> exact ⟨s', _, hw, h⟩
    · split at h
      · cases h
        exact ⟨s', _, (decodeSym_ok hm).1, rfl⟩
      · rcases Res.bind_eq_raised.1 h with h | ⟨e, s'', he, h⟩
        · obtain ⟨u, hc, h⟩ := readBits_raised h
          exact ⟨u, _, (decodeSym_ok hm).1.trans hc.walkOnly, h⟩
        · unfold answer at h; split at h <;> cases h
  · rcases Res.bind_eq_raised.1 h with h | ⟨m, s', hm, h⟩
    · obtain ⟨s', hw, h | h⟩ := decodeSym_raised h <;> exact ⟨s', _, hw, h⟩
    · rcases Res.bind_eq_raised.1 h with h | ⟨e, s'', he, h⟩
      · obtain ⟨u, hc, h⟩ := readBits_raised h
        exact ⟨u, _, (decodeSym_ok hm).1.trans hc.walkOnly, h⟩
      · unfold answer at h; split at h <;> cases h
  all_goals cases h

end Sys2Proof.Machine
end

