-- ==== Sys2Proof/Laws/Exec.lean ====
section
/-! SUPPORT. What each shared operation of the meanings can do, which meaning an element has by its layout, and what a step can do:
the lemmas a proof cites instead of unfolding them. -/

namespace Sys2Proof.Machine

/-! The copy. -/

theorem copyLoop_succ (base n k : Nat) (s : State) :
    copyLoop base (n + 1) k s =
      match s.out.read (base + k) with
      | none => .stop .outByteAbsent
      | some b => copyLoop base n (k + 1) (State.append b { s with offset := k }) := rfl

/-- The copy appends one byte an iteration; it changes OUT above the old end, `olen` and `offset`, and nothing else. -/
theorem copyLoop_ok {base n k : Nat} {s t : State} {u : Unit} (h : copyLoop base n k s = .ok u t) :
    t = { s with offset := if n = 0 then s.offset else k + n - 1, out := t.out, olen := s.olen + n } ∧
      (∀ a, a < s.olen ∨ s.olen + n ≤ a → t.out.read a = s.out.read a) := by
  induction n generalizing k s with
  | zero => cases h; simp
  | succ n ih =>
    rw [copyLoop_succ] at h
    split at h
    · cases h
    · next b hb =>
      obtain ⟨ht, hr⟩ := ih h
      constructor
      · rw [ht]
        by_cases hn : n = 0
        · subst hn; simp [State.append]
        · have e : k + 1 + n - 1 = k + (n + 1) - 1 := by omega
          simp [State.append, hn, Nat.add_assoc, Nat.add_comm 1 n]
      · intro a ha
        rw [hr a (by simp only [State.append_olen]; omega)]
        exact Memory.read_write_other s.out s.olen a b (by omega)

/-- The copy neither raises nor refuses. -/
theorem copyLoop_no_raise {base n k : Nat} {s t : State} (h : copyLoop base n k s = .raised t) : False := by
  induction n generalizing k s with
  | zero => cases h
  | succ n ih =>
    rw [copyLoop_succ] at h
    split at h
    · cases h
    · exact ih h

/-! The dynamic header. -/

@[simp] theorem clSymEnd_phase (s : State) :
    (clSymEnd s).phase = if s.idx = s.total then .buildLd else s.phase := by
  unfold clSymEnd; split <;> rfl

/-- The end of the CLSYM frame writes `phase` alone. -/
theorem clSymEnd_eq (s : State) :
    clSymEnd s = { s with phase := if s.idx = s.total then .buildLd else s.phase } := by
  unfold clSymEnd; split <;> rfl

/-- CL0 to CL15 write one length. -/
theorem clLiteral_next {v : BitVec 4} {s t : State} (h : clLiteral v s = .next t) :
    s.idx < 320 ∧
      t = { s with
        sym := v.toNat, lens := s.lens.setIfInBounds s.idx v, idx := s.idx + 1
        phase := if s.idx + 1 = s.total then .buildLd else s.phase } := by
  unfold clLiteral at h
  split at h
  · next hi =>
    rw [clSymEnd_eq] at h
    cases h
    exact ⟨hi, rfl⟩
  · cases h

/-- A run either passes `total` and raises, or fills its entries. -/
theorem clRun_next {rep : Nat} {v : BitVec 4} {s t : State} (h : clRun rep v s = .next t) :
    (s.total < s.idx + rep ∧ t = State.raise .invalidRunLength { s with rep := rep }) ∨
    (s.idx + rep ≤ s.total ∧
      t = { s with
        rep := rep, lens := fillLens v rep s.idx s.lens, idx := s.idx + rep
        phase := if s.idx + rep = s.total then .buildLd else s.phase }) := by
  simp only [clRun] at h
  split at h
  · next hi => cases h; exact .inl ⟨hi, rfl⟩
  · next hi =>
    rw [clSymEnd_eq] at h
    cases h
    exact .inr ⟨Nat.le_of_not_lt hi, rfl⟩

/-- A run stops nowhere. -/
theorem clRun_total (rep : Nat) (v : BitVec 4) (s : State) : ∃ t, clRun rep v s = .next t := by
  simp only [clRun]
  split <;> exact ⟨_, rfl⟩

/-- The entries of a filled array. -/
theorem fillLens_get (v : BitVec 4) (n i k : Nat) (lens : Vector (BitVec 4) 320) (h : i + n ≤ 320) :
    (fillLens v n i lens).toList.getD k 0 =
      if i ≤ k ∧ k < i + n then v else lens.toList.getD k 0 := by
  induction n generalizing i lens with
  | zero => simp [fillLens]
  | succ n ih =>
    rw [fillLens, ih (i + 1) _ (by omega)]
    by_cases h1 : i + 1 ≤ k ∧ k < i + 1 + n
    · rw [if_pos h1, if_pos (by omega)]
    · rw [if_neg h1]
      by_cases h2 : i = k
      · subst h2
        rw [if_pos (by omega)]
        have : i < 320 := by omega
        simp [Vector.toList_setIfInBounds, List.getD_eq_getElem?_getD, this]
      · rw [if_neg (by omega)]
        simp [Vector.toList_setIfInBounds, List.getD_eq_getElem?_getD, List.getElem?_set_ne h2]

/-- BUILD succeeds with the canonical codes, and changes its running register alone. -/
theorem build_ok {lens : List Nat} {codes : List (Option Nat)} {s t : State} (h : build lens s = .ok codes t) :
    ∃ c, canonicalCodes lens = .ok (codes, c) ∧ t = { s with code := c } := by
  unfold build at h
  split at h
  · cases h
  · split at h
    · cases h
    · next r hr => cases h; exact ⟨r.2, hr, rfl⟩

/-- BUILD fails with InvalidCodeLengths, and changes its running register alone before. -/
theorem build_raised {lens : List Nat} {s t : State} (h : build lens s = .raised t) :
    ∃ c, t = State.raise .invalidCodeLengths { s with code := c } := by
  unfold build at h
  split at h
  · cases h; exact ⟨s.code, rfl⟩
  · split at h
    · next c _ => cases h; exact ⟨c, rfl⟩
    · cases h

/-- BUILD always succeeds or raises. -/
theorem build_total (lens : List Nat) (s : State) :
    (∃ codes t, build lens s = .ok codes t) ∨ ∃ t, build lens s = .raised t := by
  unfold build
  split
  · exact .inr ⟨_, rfl⟩
  · split
    · exact .inr ⟨_, rfl⟩
    · exact .inl ⟨_, _, rfl⟩

/-- BUILD_CL. -/
theorem buildCl_next {s t : State} (h : buildCl s = .next t) :
    (∃ c, t = State.raise .invalidCodeLengths { s with code := c }) ∨
    ∃ codes c, canonicalCodes s.clLens = .ok (codes, c) ∧
      t = { s with code := c, clCode := storeCodes s.clCode codes, idx := 0, phase := .clSyms } := by
  rcases Res.finish_eq_next.1 h with h | ⟨codes, u, hb, h⟩
  · exact .inl (build_raised h)
  · obtain ⟨c, hc, rfl⟩ := build_ok hb
    cases h
    exact .inr ⟨codes, c, hc, rfl⟩

/-- BUILD_LD. -/
theorem buildLd_next {s t : State} (h : buildLd s = .next t) :
    (∃ c ll, t = State.raise .invalidCodeLengths { s with code := c, llCode := ll }) ∨
    ∃ ll d c c', canonicalCodes s.llLens = .ok (ll, c) ∧ canonicalCodes s.dLens = .ok (d, c') ∧
      t = { s with
        code := c', llCode := storeCodes s.llCode ll, dCode := storeCodes s.dCode d, phase := .symbols } := by
  rcases Res.finish_eq_next.1 h with h | ⟨ll, u, hb, h⟩
  · obtain ⟨c, rfl⟩ := build_raised h
    exact .inl ⟨c, s.llCode, rfl⟩
  · obtain ⟨c, hc, rfl⟩ := build_ok hb
    rcases Res.finish_eq_next.1 h with h | ⟨d, v, hd, h⟩
    · obtain ⟨c', rfl⟩ := build_raised h
      exact .inl ⟨c', _, rfl⟩
    · obtain ⟨c', hc', rfl⟩ := build_ok hd
      cases h
      exact .inr ⟨ll, d, c, c', hc, hc', rfl⟩

/-! The symbols. -/

/-- The distance half of a back-reference: one of the two failures, or the copy. -/
theorem distanceHalf_next {m e : Nat} {s t : State} (h : distanceHalf m e s = .next t) :
    (∃ f, t = State.raise f { s with dsym := m, extra := e, distance := matchDistance m e } ∧
      (f = .invalidDistance ∨ f = .outputCapacityExceeded)) ∨
    (matchDistance m e ≤ s.olen ∧ s.overCap s.length = false ∧
      ∃ u, copyLoop (s.olen - matchDistance m e) s.length 0
        { s with dsym := m, extra := e, distance := matchDistance m e } = .ok u t) := by
  simp only [distanceHalf] at h
  split at h
  · cases h; exact .inl ⟨_, rfl, .inl rfl⟩
  · next hd =>
    split at h
    · cases h; exact .inl ⟨_, rfl, .inr rfl⟩
    · next hc =>
      rcases Res.finish_eq_next.1 h with h | ⟨u, v, hb, h⟩
      · exact (copyLoop_no_raise h).elim
      · cases h
        exact .inr ⟨by simpa using hd, by simpa [State.overCap] using hc, u, hb⟩

/-! Which meaning an element has, by its layout. -/

theorem exec_cl_literal {i : Instr} {n : Nat} (h : i.layout = .coded .cl n 0 0) (s : State) :
    n ≤ 15 ∧ exec i s = clLiteral (BitVec.ofNat 4 n) s := by
  cases i <;> simp [Instr.layout] at h <;> subst h <;> exact ⟨by omega, rfl⟩

theorem exec_length {i : Instr} {n w e : Nat} (h : i.layout = .coded .ll n w e) (hl : i.isLength = true)
    (s : State) : exec i s = lengthHalf n e s := by
  cases i <;> simp [Instr.layout] at h <;> obtain ⟨rfl, rfl, rfl⟩ := h <;>
    first
      | rfl
      | simp [Instr.isLength, Instr.layout, Config.lenSymLo, Config.lenSymHi] at hl
  next b =>
    have := b.isLt
    have := of_decide_eq_true hl
    omega

theorem exec_distance {i : Instr} {m w e : Nat} (h : i.layout = .coded .d m w e) (hm : m ≤ 29) (s : State) :
    exec i s = distanceHalf m e s := by
  cases i <;> simp [Instr.layout] at h <;> obtain ⟨rfl, rfl, rfl⟩ := h <;> first | rfl | omega

/-! The step. -/

/-- What the distance half of a step can do. -/
theorem distanceStep_next {s t : State} (h : distanceStep s = .next t) :
    fetchDist s = .raised t ∨ ∃ j u, fetchDist s = .ok j u ∧ exec j u = .next t :=
  Res.finish_eq_next.1 h

/-- What a step that reads an element can do. -/
theorem elementStep_next {s t : State} (h : elementStep s = .next t) :
    fetchElement s = .raised t ∨
    ∃ i u v, fetchElement s = .ok i u ∧ exec i u = .next v ∧
      ((i.isLength = false ∧ t = v) ∨ (i.isLength = true ∧ distanceStep v = .next t)) := by
  rcases Res.finish_eq_next.1 h with h | ⟨i, u, hu, h⟩
  · exact .inl h
  · split at h
    · next v hv =>
      split at h
      · next hl => exact .inr ⟨i, u, v, hu, hv, .inr ⟨hl, h⟩⟩
      · next hl => cases h; exact .inr ⟨i, u, _, hu, hv, .inl ⟨by simpa using hl, rfl⟩⟩
    · cases h
    · cases h

/-- What a step can do: take the host's transaction, build a table, or read an element. -/
theorem step_cases {s t : State} (h : step s = .next t) :
    (∃ c, s.hostCmd = some c ∧ takeHostCmd c s = .next t) ∨
    (s.hostCmd = none ∧ s.status = .busy ∧
      ((s.phase = .buildCl ∧ buildCl s = .next t) ∨ (s.phase = .buildLd ∧ buildLd s = .next t) ∨
        ((s.phase = .blockHdr ∨ s.phase = .dynCounts ∨ s.phase = .clLens ∨ s.phase = .clSyms ∨
          s.phase = .symbols) ∧ elementStep s = .next t))) := by
  unfold step machineStep at h
  split at h
  · next c hc => exact .inl ⟨c, hc, h⟩
  · next hc =>
    unfold sequencerStep at h
    split at h
    · next hb =>
      refine .inr ⟨hc, hb, ?_⟩
      split at h <;> simp_all
    · cases h

/-- What a START or a RESET can do. -/
theorem takeHostCmd_next {c : HostCmd} {s t : State} (h : takeHostCmd c s = .next t) :
    (c = .reset ∧ t = hostReset s) ∨
    ∃ src p cap, c = .start src p cap ∧ s.status ≠ .busy ∧ p ≤ src.length ∧ t = sessionStart src p cap s := by
  cases c with
  | reset => cases h; exact .inl ⟨rfl, rfl⟩
  | start src p cap =>
    simp only [takeHostCmd, hostStart] at h
    split at h
    · cases h
    · next hb =>
      split at h
      · cases h
      · next hp => cases h; exact .inr ⟨src, p, cap, rfl, hb, by omega, rfl⟩

end Sys2Proof.Machine
end

