-- ==== Sys2Proof/Laws/PerInstr.lean ====
section
/-! SUPPORT. The family Encoding: for each element, the decoder's map from fields and symbols to elements undoes the element's
layout, operand for operand. One lemma per constructor. -/

namespace Sys2Proof.Laws.Encoding

open Machine

-- One proof at a time: the proofs of this file are many and short, and every waiting one would hold a thread's stack.
set_option Elab.async false

/-- The layout of `i` names fields or a symbol that the decoder turns back into `i`, with an extra-bits field of the width the
decoder reads after that symbol and a value that fits it (30_encoding.md R71, R74). -/
def Statement (i : Instr) : Prop :=
  match i.layout with
  | .fields [(1, f), (2, t)] =>
    i.wf = true → f < 2 ∧ t < 4 ∧ blkElement (BitVec.ofNat 1 f) (BitVec.ofNat 2 t) = i
  | .fields [(5, l), (5, d), (4, c)] =>
    l < 32 ∧ d < 32 ∧ c < 16 ∧ Instr.hdr (BitVec.ofNat 5 l) (BitVec.ofNat 5 d) (BitVec.ofNat 4 c) = i
  | .fields [(3, v)] => v < 8 ∧ Instr.cllen (BitVec.ofNat 3 v) = i
  | .fields _ => False
  | .coded .cl n w e => n < 19 ∧ w = clExtraWidth n ∧ e < 2 ^ w ∧ clElement n e = some i
  | .coded .ll n w e => n < 288 ∧ w = llExtraWidth n ∧ e < 2 ^ w ∧ llElement n e = some i
  | .coded .d n w e => n < 32 ∧ w = distExtraWidth n ∧ e < 2 ^ w ∧ distElement n e = some i

theorem blk (f : BitVec 1) (t : BitVec 2) : Statement (.blk f t) := by
  intro h
  have ht : t = 2 := by simpa [Instr.wf] using h
  subst ht
  exact ⟨f.isLt, by decide, by simp [blkElement]⟩

theorem blkBtype0 (f : BitVec 1) : Statement (.blkBtype0 f) := by
  intro _
  exact ⟨f.isLt, by decide, by simp [blkElement]⟩

theorem blkBtype1 (f : BitVec 1) : Statement (.blkBtype1 f) := by
  intro _
  exact ⟨f.isLt, by decide, by simp [blkElement]⟩

theorem blkBtype3 (f : BitVec 1) : Statement (.blkBtype3 f) := by
  intro _
  exact ⟨f.isLt, by decide, by simp [blkElement]⟩

theorem hdr (l d : BitVec 5) (c : BitVec 4) : Statement (.hdr l d c) :=
  ⟨l.isLt, d.isLt, c.isLt, by simp⟩

theorem cllen (v : BitVec 3) : Statement (.cllen v) := ⟨v.isLt, by simp⟩

theorem cl0 : Statement .cl0 := ⟨by decide, rfl, by decide, rfl⟩
theorem cl1 : Statement .cl1 := ⟨by decide, rfl, by decide, rfl⟩
theorem cl2 : Statement .cl2 := ⟨by decide, rfl, by decide, rfl⟩
theorem cl3 : Statement .cl3 := ⟨by decide, rfl, by decide, rfl⟩
theorem cl4 : Statement .cl4 := ⟨by decide, rfl, by decide, rfl⟩
theorem cl5 : Statement .cl5 := ⟨by decide, rfl, by decide, rfl⟩
theorem cl6 : Statement .cl6 := ⟨by decide, rfl, by decide, rfl⟩
theorem cl7 : Statement .cl7 := ⟨by decide, rfl, by decide, rfl⟩
theorem cl8 : Statement .cl8 := ⟨by decide, rfl, by decide, rfl⟩
theorem cl9 : Statement .cl9 := ⟨by decide, rfl, by decide, rfl⟩
theorem cl10 : Statement .cl10 := ⟨by decide, rfl, by decide, rfl⟩
theorem cl11 : Statement .cl11 := ⟨by decide, rfl, by decide, rfl⟩
theorem cl12 : Statement .cl12 := ⟨by decide, rfl, by decide, rfl⟩
theorem cl13 : Statement .cl13 := ⟨by decide, rfl, by decide, rfl⟩
theorem cl14 : Statement .cl14 := ⟨by decide, rfl, by decide, rfl⟩
theorem cl15 : Statement .cl15 := ⟨by decide, rfl, by decide, rfl⟩

theorem cl16 (e : BitVec 2) : Statement (.cl16 e) := ⟨by decide, rfl, e.isLt, by simp [clElement]⟩
theorem cl17 (e : BitVec 3) : Statement (.cl17 e) := ⟨by decide, rfl, e.isLt, by simp [clElement]⟩
theorem cl18 (e : BitVec 7) : Statement (.cl18 e) := ⟨by decide, rfl, e.isLt, by simp [clElement]⟩

theorem lit (s : BitVec 8) : Statement (.lit s) := by
  have h := s.isLt
  have h1 : ¬ Config.lenSymLo ≤ s.toNat := by simp only [Config.lenSymLo]; omega
  have h2 : s.toNat < Config.symEob := by simp only [Config.symEob]; omega
  exact ⟨by omega, by simp [llExtraWidth, h1], by decide, by simp [llElement, h2]⟩

theorem eob : Statement .eob := ⟨by decide, rfl, by decide, rfl⟩

theorem len257 : Statement .len257 := ⟨by decide, rfl, by decide, rfl⟩
theorem len258 : Statement .len258 := ⟨by decide, rfl, by decide, rfl⟩
theorem len259 : Statement .len259 := ⟨by decide, rfl, by decide, rfl⟩
theorem len260 : Statement .len260 := ⟨by decide, rfl, by decide, rfl⟩
theorem len261 : Statement .len261 := ⟨by decide, rfl, by decide, rfl⟩
theorem len262 : Statement .len262 := ⟨by decide, rfl, by decide, rfl⟩
theorem len263 : Statement .len263 := ⟨by decide, rfl, by decide, rfl⟩
theorem len264 : Statement .len264 := ⟨by decide, rfl, by decide, rfl⟩
theorem len265 (e : BitVec 1) : Statement (.len265 e) := ⟨by decide, rfl, e.isLt, by simp [llElement, lengthElement, Config.symEob, Config.lenSymLo]⟩
theorem len266 (e : BitVec 1) : Statement (.len266 e) := ⟨by decide, rfl, e.isLt, by simp [llElement, lengthElement, Config.symEob, Config.lenSymLo]⟩
theorem len267 (e : BitVec 1) : Statement (.len267 e) := ⟨by decide, rfl, e.isLt, by simp [llElement, lengthElement, Config.symEob, Config.lenSymLo]⟩
theorem len268 (e : BitVec 1) : Statement (.len268 e) := ⟨by decide, rfl, e.isLt, by simp [llElement, lengthElement, Config.symEob, Config.lenSymLo]⟩
theorem len269 (e : BitVec 2) : Statement (.len269 e) := ⟨by decide, rfl, e.isLt, by simp [llElement, lengthElement, Config.symEob, Config.lenSymLo]⟩
theorem len270 (e : BitVec 2) : Statement (.len270 e) := ⟨by decide, rfl, e.isLt, by simp [llElement, lengthElement, Config.symEob, Config.lenSymLo]⟩
theorem len271 (e : BitVec 2) : Statement (.len271 e) := ⟨by decide, rfl, e.isLt, by simp [llElement, lengthElement, Config.symEob, Config.lenSymLo]⟩
theorem len272 (e : BitVec 2) : Statement (.len272 e) := ⟨by decide, rfl, e.isLt, by simp [llElement, lengthElement, Config.symEob, Config.lenSymLo]⟩
theorem len273 (e : BitVec 3) : Statement (.len273 e) := ⟨by decide, rfl, e.isLt, by simp [llElement, lengthElement, Config.symEob, Config.lenSymLo]⟩
theorem len274 (e : BitVec 3) : Statement (.len274 e) := ⟨by decide, rfl, e.isLt, by simp [llElement, lengthElement, Config.symEob, Config.lenSymLo]⟩
theorem len275 (e : BitVec 3) : Statement (.len275 e) := ⟨by decide, rfl, e.isLt, by simp [llElement, lengthElement, Config.symEob, Config.lenSymLo]⟩
theorem len276 (e : BitVec 3) : Statement (.len276 e) := ⟨by decide, rfl, e.isLt, by simp [llElement, lengthElement, Config.symEob, Config.lenSymLo]⟩
theorem len277 (e : BitVec 4) : Statement (.len277 e) := ⟨by decide, rfl, e.isLt, by simp [llElement, lengthElement, Config.symEob, Config.lenSymLo]⟩
theorem len278 (e : BitVec 4) : Statement (.len278 e) := ⟨by decide, rfl, e.isLt, by simp [llElement, lengthElement, Config.symEob, Config.lenSymLo]⟩
theorem len279 (e : BitVec 4) : Statement (.len279 e) := ⟨by decide, rfl, e.isLt, by simp [llElement, lengthElement, Config.symEob, Config.lenSymLo]⟩
theorem len280 (e : BitVec 4) : Statement (.len280 e) := ⟨by decide, rfl, e.isLt, by simp [llElement, lengthElement, Config.symEob, Config.lenSymLo]⟩
theorem len281 (e : BitVec 5) : Statement (.len281 e) := ⟨by decide, rfl, e.isLt, by simp [llElement, lengthElement, Config.symEob, Config.lenSymLo]⟩
theorem len282 (e : BitVec 5) : Statement (.len282 e) := ⟨by decide, rfl, e.isLt, by simp [llElement, lengthElement, Config.symEob, Config.lenSymLo]⟩
theorem len283 (e : BitVec 5) : Statement (.len283 e) := ⟨by decide, rfl, e.isLt, by simp [llElement, lengthElement, Config.symEob, Config.lenSymLo]⟩
theorem len284 (e : BitVec 5) : Statement (.len284 e) := ⟨by decide, rfl, e.isLt, by simp [llElement, lengthElement, Config.symEob, Config.lenSymLo]⟩
theorem len285 : Statement .len285 := ⟨by decide, rfl, by decide, rfl⟩
theorem ll286 : Statement .ll286 := ⟨by decide, rfl, by decide, rfl⟩
theorem ll287 : Statement .ll287 := ⟨by decide, rfl, by decide, rfl⟩

theorem dist0 : Statement .dist0 := ⟨by decide, rfl, by decide, rfl⟩
theorem dist1 : Statement .dist1 := ⟨by decide, rfl, by decide, rfl⟩
theorem dist2 : Statement .dist2 := ⟨by decide, rfl, by decide, rfl⟩
theorem dist3 : Statement .dist3 := ⟨by decide, rfl, by decide, rfl⟩
theorem dist4 (e : BitVec 1) : Statement (.dist4 e) := ⟨by decide, rfl, e.isLt, by simp [distElement]⟩
theorem dist5 (e : BitVec 1) : Statement (.dist5 e) := ⟨by decide, rfl, e.isLt, by simp [distElement]⟩
theorem dist6 (e : BitVec 2) : Statement (.dist6 e) := ⟨by decide, rfl, e.isLt, by simp [distElement]⟩
theorem dist7 (e : BitVec 2) : Statement (.dist7 e) := ⟨by decide, rfl, e.isLt, by simp [distElement]⟩
theorem dist8 (e : BitVec 3) : Statement (.dist8 e) := ⟨by decide, rfl, e.isLt, by simp [distElement]⟩
theorem dist9 (e : BitVec 3) : Statement (.dist9 e) := ⟨by decide, rfl, e.isLt, by simp [distElement]⟩
theorem dist10 (e : BitVec 4) : Statement (.dist10 e) := ⟨by decide, rfl, e.isLt, by simp [distElement]⟩
theorem dist11 (e : BitVec 4) : Statement (.dist11 e) := ⟨by decide, rfl, e.isLt, by simp [distElement]⟩
theorem dist12 (e : BitVec 5) : Statement (.dist12 e) := ⟨by decide, rfl, e.isLt, by simp [distElement]⟩
theorem dist13 (e : BitVec 5) : Statement (.dist13 e) := ⟨by decide, rfl, e.isLt, by simp [distElement]⟩
theorem dist14 (e : BitVec 6) : Statement (.dist14 e) := ⟨by decide, rfl, e.isLt, by simp [distElement]⟩
theorem dist15 (e : BitVec 6) : Statement (.dist15 e) := ⟨by decide, rfl, e.isLt, by simp [distElement]⟩
theorem dist16 (e : BitVec 7) : Statement (.dist16 e) := ⟨by decide, rfl, e.isLt, by simp [distElement]⟩
theorem dist17 (e : BitVec 7) : Statement (.dist17 e) := ⟨by decide, rfl, e.isLt, by simp [distElement]⟩
theorem dist18 (e : BitVec 8) : Statement (.dist18 e) := ⟨by decide, rfl, e.isLt, by simp [distElement]⟩
theorem dist19 (e : BitVec 8) : Statement (.dist19 e) := ⟨by decide, rfl, e.isLt, by simp [distElement]⟩
theorem dist20 (e : BitVec 9) : Statement (.dist20 e) := ⟨by decide, rfl, e.isLt, by simp [distElement]⟩
theorem dist21 (e : BitVec 9) : Statement (.dist21 e) := ⟨by decide, rfl, e.isLt, by simp [distElement]⟩
theorem dist22 (e : BitVec 10) : Statement (.dist22 e) := ⟨by decide, rfl, e.isLt, by simp [distElement]⟩
theorem dist23 (e : BitVec 10) : Statement (.dist23 e) := ⟨by decide, rfl, e.isLt, by simp [distElement]⟩
theorem dist24 (e : BitVec 11) : Statement (.dist24 e) := ⟨by decide, rfl, e.isLt, by simp [distElement]⟩
theorem dist25 (e : BitVec 11) : Statement (.dist25 e) := ⟨by decide, rfl, e.isLt, by simp [distElement]⟩
theorem dist26 (e : BitVec 12) : Statement (.dist26 e) := ⟨by decide, rfl, e.isLt, by simp [distElement]⟩
theorem dist27 (e : BitVec 12) : Statement (.dist27 e) := ⟨by decide, rfl, e.isLt, by simp [distElement]⟩
theorem dist28 (e : BitVec 13) : Statement (.dist28 e) := ⟨by decide, rfl, e.isLt, by simp [distElement]⟩
theorem dist29 (e : BitVec 13) : Statement (.dist29 e) := ⟨by decide, rfl, e.isLt, by simp [distElement]⟩
theorem d30 : Statement .d30 := ⟨by decide, rfl, by decide, rfl⟩
theorem d31 : Statement .d31 := ⟨by decide, rfl, by decide, rfl⟩

end Sys2Proof.Laws.Encoding
end

