-- ==== Sys2Proof/Tests/Slice0.lean ====
section
/-! SUPPORT. Tests of the model: ill-formed terms, words written out bit by bit from 30_encoding.md, the derived vectors of
95_test_vectors.md one operation or one step at a time, and for each obligation with hypotheses a state and operands that meet
them. Expected values come from the spec, never from the model. -/

namespace Sys2Proof.Tests

open Machine

-- One proof at a time: each kernel evaluation waits for the one before it, and every waiting proof would hold a thread's stack.
set_option Elab.async false

/-! Small states. -/

/-- Bytes from stream bits, the first bit lowest (20_memory.md R54). -/
def pack : Nat → List Nat → List Byte
  | 0, _ => []
  | n + 1, bits => BitVec.ofNat 8 ((bits.take 8).foldr (fun b v => b + 2 * v) 0) :: pack n (bits.drop 8)

/-- The `n` stream bits of a word written with the first bit leftmost. -/
def word (n w : Nat) : List Nat := (List.range n).map fun i => w >>> (n - 1 - i) % 2

/-- A register file from its entries. -/
def file {w n : Nat} (l : List (BitVec w)) (h : l.length = n) : Vector (BitVec w) n := ⟨l.toArray, by simpa using h⟩

/-- A session in phase `p` at the first bit of `bytes`. -/
def sess (p : Phase) (bytes : List Byte) : State :=
  { State.reset with
    status := p.status, phase := p, btype := 2, src := Memory.ofBytes bytes, srcLen := bytes.length }

/-- A session in phase `p` at the first of these stream bits, zeros after them. -/
def atBits (p : Phase) (bits : List Nat) : State := sess p (pack (bits.length / 8 + 2) bits)

/-- The code-length code whose symbols 0 to 12 have the codewords 0000 to 1100 and 13 to 18 have 11010 to 11111. -/
def withCl (s : State) : State :=
  { s with
    clLen := file (List.replicate 13 4 ++ List.replicate 6 5) rfl
    clCode := file (((List.range 13) ++ (List.range 6).map (· + 26)).map (BitVec.ofNat 7)) rfl }

/-- The literal/length code whose symbols 256 to 287 have the codewords 00000 to 11111, and the distance code whose symbols 0 to 31
have them. -/
def withLd (s : State) : State :=
  { s with
    hlit := 31, hdist := 31
    lens := file (List.replicate 256 0 ++ List.replicate 64 5) (by decide +kernel)
    llCode := file (List.replicate 256 0 ++ (List.range 32).map (BitVec.ofNat 15)) (by decide +kernel)
    dCode := file ((List.range 32).map (BitVec.ofNat 15)) (by decide +kernel) }

/-- The literal/length code whose symbols 0 to 255 have their own 8 bits as codewords. -/
def withLits (s : State) : State :=
  { s with
    hlit := 0
    lens := file (List.replicate 256 8 ++ List.replicate 64 0) (by decide +kernel)
    llCode := file ((List.range 288).map (BitVec.ofNat 15)) (by decide +kernel) }

/-- No literal/length codeword, and the distance code of `withLd`. -/
def noLl (s : State) : State :=
  { s with lens := file (List.replicate 288 0 ++ List.replicate 32 5) (by decide +kernel) }

/-- What a read delivers. -/
def val {α : Type} : Res α → Option α
  | .ok v _ => some v
  | _ => none

/-- The state a read leaves. -/
def left {α : Type} : Res α → Option State
  | .ok _ s => some s
  | _ => none

/-- The failure a read raises. -/
def failure {α : Type} : Res α → Option Failure
  | .raised s => s.err
  | _ => none

/-- The next state. -/
def nxt : Host.Outcome State Fault Refusal → Option State
  | .next s => some s
  | _ => none

theorem of_val {α : Type} {r : Res α} {v : α} (h : val r = some v) : ∃ s, r = .ok v s := by
  cases r <;> simp_all [val]

theorem of_nxt {o : Host.Outcome State Fault Refusal} (h : (nxt o).isSome = true) : ∃ t, o = .next t := by
  cases o <;> simp_all [nxt]

/-! Checks that compute. -/

def cursorCheck (s : State) : Bool :=
  decide (s.acc.toNat < 2 ^ s.cnt ∧ s.cnt ≤ 23 ∧ s.cnt ≤ 8 * (s.pos - s.startPos) ∧ s.startPos ≤ s.pos ∧
    s.pos ≤ s.srcLen ∧ (∀ i < s.cnt, s.acc.getLsbD i = s.streamBit (s.bitpos + i)) ∧ s.src.dense s.srcLen = true)

theorem cursor_of {s : State} (h : cursorCheck s = true) : s.CursorOk := by
  obtain ⟨h1, h2, h3, h4, h5, h6, h7⟩ := of_decide_eq_true h
  exact ⟨h1, h2, h3, h4, h5, h6, h7⟩

def capCheck (s : State) : Bool :=
  match s.outCap with
  | none => true
  | some c => decide (s.olen ≤ c)

theorem cap_of {s : State} (h : capCheck s = true) : ∀ cap, s.outCap = some cap → s.olen ≤ cap := by
  intro cap hc
  simpa [capCheck, hc] using h

def invCheck (s : State) : Bool :=
  capCheck s &&
  decide (s.status = s.phase.status ∧ (s.err = none ↔ s.status ≠ .fault) ∧
    (s.status ≠ .idle → cursorCheck s = true) ∧ (s.status = .idle → s.acc = 0 ∧ s.cnt = 0) ∧
    (s.status ≠ .fault → s.cnt ≤ 7) ∧ s.src.dense s.srcLen = true ∧ s.out.dense s.olen = true ∧
    (s.status = .busy ∨ s.status = .done → s.wlen = 0 ∧ s.wval = 0) ∧
    (s.phase = .clLens → s.cli < s.ncl) ∧ (s.phase = .buildCl → s.cli = s.ncl) ∧
    (s.phase = .clSyms → s.idx < s.total) ∧ (s.phase = .buildLd → s.idx = s.total) ∧
    (s.phase ≠ .blockHdr → s.status = .busy ∨ s.status = .done → s.btype = 2) ∧
    (s.status = .done → s.bfinal = 1))

theorem inv_of {s : State} (h : invCheck s = true) : s.Inv := by
  obtain ⟨hc, h⟩ := Bool.and_eq_true_iff.1 h
  obtain ⟨a, b, c, d, e, f, g, i, j, k, l, m, n, o⟩ := of_decide_eq_true h
  exact ⟨a, b, fun x => cursor_of (c x), d, e, f, g, cap_of hc, i, j, k, l, m, n, o⟩

def runCheck (s : State) : Bool := invCheck s && decide (s.status = .busy ∧ s.hostCmd = none)

theorem running_of {s : State} (h : runCheck s = true) : s.Running := by
  obtain ⟨hi, h⟩ := Bool.and_eq_true_iff.1 h
  obtain ⟨hb, hq⟩ := of_decide_eq_true h
  exact ⟨inv_of hi, hb, hq⟩

/-- The hypothesis of the encoding statements about an element's code table. -/
def tableCheck (s : State) (i : Instr) : Bool :=
  match i.layout with
  | .coded a sym _ _ => (tableOf s a).sound && decide (¬ (a = .cl ∧ sym = 16 ∧ s.idx = 0))
  | .fields _ => true

theorem table_of {s : State} {i : Instr} (h : tableCheck s i = true) :
    ∀ a sym w e, i.layout = .coded a sym w e →
      (tableOf s a).sound = true ∧ ¬ (a = .cl ∧ sym = 16 ∧ s.idx = 0) := by
  intro a sym w e hl
  simp only [tableCheck, hl] at h
  obtain ⟨h1, h2⟩ := Bool.and_eq_true_iff.1 h
  exact ⟨h1, of_decide_eq_true h2⟩

def holdsCheck (lens : List Nat) (t : CodeTable) : Bool :=
  match canonicalCodes lens with
  | .ok r => decide (∀ x < r.1.length, ∀ cx ∈ r.1[x]?.join, t[x]? = some (lens.getD x 0, cx))
  | .error _ => false

theorem holds_of {lens : List Nat} {t : CodeTable} (h : holdsCheck lens t = true) : holdsCodesOf lens t := by
  unfold holdsCheck at h
  split at h
  · next r hr =>
    refine ⟨r.1, r.2, hr, fun x cx hx => ?_⟩
    have hlt : x < r.1.length := by
      by_contra hge
      rw [List.getElem?_eq_none (by omega)] at hx
      cases hx
    exact of_decide_eq_true h x hlt cx (by simp [hx])
  · cases h

/-- A state in each phase of a session, at the first bit of its source. -/
def sBlk : State := sess .blockHdr [0x05, 0xC0, 0x81]
def sHdr : State := sess .dynCounts [0x00, 0x38]
def sCll : State := sess .clLens [0x05]
def sBuildCl : State := { withCl (sess .buildCl [0x00]) with cli := 4 }
def sCl : State := withCl (atBits .clSyms [1, 1, 1, 0, 1, 1, 0])
def sClAt5 : State := { sCl with idx := 5, lens := Vector.replicate 320 7 }
def sBuildLd : State := { withLd (sess .buildLd [0x00]) with idx := 320 }
def sSym : State := withLd (atBits .symbols [0, 1, 0, 0, 1, 1, 0, 0, 1, 0, 0, 1])
def sOut : State := { sSym with out := [(0, 0x61), (1, 0x62)], olen := 2, outCap := some 8, length := 5 }
def sDone : State := { sess .done [0xFF] with bfinal := 1, pos := 1, cnt := 3, acc := 7, out := [(0, 0x58)], olen := 1 }
def sFault : State := { sess .fault [0x01] with err := some .unsupportedBlockType, pos := 1 }

/-! Well-formedness. -/

/-- BLK has `btype` 2 only (opcode_table.json, the row's legal values). -/
theorem test_blk_ill_formed :
    (Instr.blk 1 0).wf = false ∧ (Instr.blk 1 1).wf = false ∧ (Instr.blk 1 3).wf = false ∧ (Instr.blk 0 2).wf = true := by
  decide

/-! Decoding, from words written out. -/

/-- 30_encoding.md R71, R72: `f`, then `btype` bit 0, then `btype` bit 1. -/
theorem test_decode_blk :
    val (fetchElement (atBits .blockHdr [1, 0, 1])) = some (.blk 1 2) ∧
    val (fetchElement (atBits .blockHdr [0, 0, 1])) = some (.blk 0 2) ∧
    val (fetchElement (atBits .blockHdr [1, 0, 0])) = some (.blkBtype0 1) ∧
    val (fetchElement (atBits .blockHdr [0, 1, 0])) = some (.blkBtype1 0) ∧
    val (fetchElement (atBits .blockHdr [1, 1, 1])) = some (.blkBtype3 1) := by decide +kernel

/-- 30_encoding.md R71: `hlit`, `hdist`, `hclen`, each least significant bit first; then `v`. -/
theorem test_decode_hdr_cllen :
    val (fetchElement (atBits .dynCounts [1, 0, 0, 1, 0, 0, 1, 1, 0, 0, 0, 1, 1, 1])) = some (.hdr 9 6 14) ∧
    val (fetchElement (atBits .clLens [1, 1, 0])) = some (.cllen 3) := by decide +kernel

/-- 30_encoding.md R76: codeword, then extra bits least significant first. -/
def clWordsA : List (Nat × Nat × Instr) :=
  [(4, 0b0000, .cl0), (4, 0b0001, .cl1), (4, 0b0010, .cl2), (4, 0b0011, .cl3), (4, 0b0100, .cl4),
   (4, 0b0101, .cl5), (4, 0b0110, .cl6), (4, 0b0111, .cl7), (4, 0b1000, .cl8), (4, 0b1001, .cl9)]

def clWordsB : List (Nat × Nat × Instr) :=
  [(4, 0b1010, .cl10), (4, 0b1011, .cl11), (4, 0b1100, .cl12), (5, 0b11010, .cl13),
   (5, 0b11011, .cl14), (5, 0b11100, .cl15), (7, 0b1110101, .cl16 2),
   (8, 0b11110100, .cl17 1), (12, 0b111110110101, .cl18 86)]

theorem test_decode_cl :
    ∀ p ∈ clWordsA ++ clWordsB,
      val (fetchElement { withCl (atBits .clSyms (word p.1 p.2.1)) with idx := 1 }) = some p.2.2 := by decide +kernel

/-- 30_encoding.md R77: a literal is its symbol. -/
theorem test_decode_lit :
    val (fetchElement (withLits (atBits .symbols [0, 0, 0, 0, 0, 0, 0, 0]))) = some (.lit 0x00) ∧
    val (fetchElement (withLits (atBits .symbols [0, 1, 1, 0, 0, 0, 0, 1]))) = some (.lit 0x61) ∧
    val (fetchElement (withLits (atBits .symbols [1, 1, 1, 1, 1, 1, 1, 1]))) = some (.lit 0xFF) := by decide +kernel

/-- 30_encoding.md R77, symbols 256 to 271 of the code `withLd`. -/
def llWordsLowA : List (Nat × Nat × Instr) :=
  [(5, 0b00000, .eob), (5, 0b00001, .len257), (5, 0b00010, .len258), (5, 0b00011, .len259),
   (5, 0b00100, .len260), (5, 0b00101, .len261), (5, 0b00110, .len262), (5, 0b00111, .len263)]

def llWordsLowB : List (Nat × Nat × Instr) :=
  [(5, 0b01000, .len264), (6, 0b010011, .len265 1), (6, 0b010100, .len266 0),
   (6, 0b010111, .len267 1), (6, 0b011001, .len268 1), (7, 0b0110110, .len269 1),
   (7, 0b0111001, .len270 2), (7, 0b0111111, .len271 3)]

/-- Symbols 272 to 287. -/
def llWordsHighA : List (Nat × Nat × Instr) :=
  [(7, 0b1000001, .len272 2), (8, 0b10001001, .len273 4), (8, 0b10010110, .len274 3),
   (8, 0b10011100, .len275 1), (8, 0b10100111, .len276 7),
   (9, 0b101010001, .len277 8), (9, 0b101101000, .len278 1)]

def llWordsHighB : List (Nat × Nat × Instr) :=
  [(9, 0b101110100, .len279 2), (9, 0b110001110, .len280 7),
   (10, 0b1100111111, .len281 31), (10, 0b1101000001, .len282 16),
   (10, 0b1101110000, .len283 1), (10, 0b1110001111, .len284 30),
   (5, 0b11101, .len285), (5, 0b11110, .ll286), (5, 0b11111, .ll287)]

theorem test_decode_ll_low :
    ∀ p ∈ llWordsLowA ++ llWordsLowB,
      val (fetchElement (withLd (atBits .symbols (word p.1 p.2.1)))) = some p.2.2 := by decide +kernel

theorem test_decode_ll_high :
    ∀ p ∈ llWordsHighA ++ llWordsHighB,
      val (fetchElement (withLd (atBits .symbols (word p.1 p.2.1)))) = some p.2.2 := by decide +kernel

/-- 30_encoding.md R78, symbols 0 to 15. -/
def distWordsLowA : List (Nat × Nat × Instr) :=
  [(5, 0b00000, .dist0), (5, 0b00001, .dist1), (5, 0b00010, .dist2), (5, 0b00011, .dist3),
   (6, 0b001001, .dist4 1), (6, 0b001010, .dist5 0), (7, 0b0011010, .dist6 1),
   (7, 0b0011101, .dist7 2)]

def distWordsLowB : List (Nat × Nat × Instr) :=
  [(8, 0b01000100, .dist8 1), (8, 0b01001001, .dist9 4),
   (9, 0b010100011, .dist10 12), (9, 0b010111000, .dist11 1),
   (10, 0b0110000001, .dist12 16), (10, 0b0110110000, .dist13 1),
   (11, 0b01110000001, .dist14 32), (11, 0b01111100000, .dist15 1)]

/-- Symbols 16 to 31. -/
def distWordsHighA : List (Nat × Nat × Instr) :=
  [(12, 0b100000000001, .dist16 64), (12, 0b100011100000, .dist17 3),
   (13, 0b1001000000001, .dist18 128), (13, 0b1001110000000, .dist19 1),
   (14, 0b10100000000001, .dist20 256),
   (14, 0b10101100000000, .dist21 1),
   (15, 0b101100000000001, .dist22 512)]

def distWordsHighB : List (Nat × Nat × Instr) :=
  [(15, 0b101111000000000, .dist23 1),
   (16, 0b1100000000000001, .dist24 1024),
   (16, 0b1100110000000000, .dist25 1),
   (17, 0b11010000000000001, .dist26 2048),
   (17, 0b11011100000000000, .dist27 1)]

def distWordsHighC : List (Nat × Nat × Instr) :=
  [(18, 0b111000000000000001, .dist28 4096),
   (18, 0b111011111111111111, .dist29 8191),
   (5, 0b11110, .d30), (5, 0b11111, .d31)]

theorem test_decode_dist_low :
    ∀ p ∈ distWordsLowA ++ distWordsLowB,
      val (fetchDist (withLd (atBits .symbols (word p.1 p.2.1)))) = some p.2.2 := by decide +kernel

theorem test_decode_dist_high :
    ∀ p ∈ distWordsHighA ++ distWordsHighB ++ distWordsHighC,
      val (fetchDist (withLd (atBits .symbols (word p.1 p.2.1)))) = some p.2.2 := by decide +kernel

/-- 30_encoding.md R71 again, through the encoder. -/
theorem test_encode :
    encode sBlk (.blk 1 2) = some [true, false, true] ∧
    encode sCl (.cl16 2) = some [true, true, true, false, true, false, true] ∧
    encode sSym (.dist4 1) = some [false, false, true, false, false, true] ∧
    encode sSym (.lit 0) = none := by decide +kernel

/-- The table's words through the interface: 0x05 and `05 C0 81` of program P1 (95_test_vectors.md V-D1). -/
theorem test_table_word :
    decodeTableWord 3 5 = some (.blk 1 2) ∧ decodeTableWord 14 0x3800 = some (.hdr 0 0 14) ∧
    (nxt (step (State.reset.withFetchWord 14 0x3800))).map (·.hclen) = some 14 := by decide +kernel

/-! The bit reader, 95_test_vectors.md V-B1 to V-B6. -/

/-- The cursor after a read, with its value. -/
def cursorAfter (r : Res Nat) : Option (Nat × Nat × Nat × Nat) :=
  match r with
  | .ok v s => some (v, s.acc.toNat, s.cnt, s.pos)
  | _ => none

/-- V-B1, the first four reads. -/
theorem test_vB1 :
    cursorAfter (readBits 1 (sess .blockHdr [0xB5, 0x3C, 0xA7])) = some (1, 0x5A, 7, 1) ∧
    cursorAfter (readBits 2 { sess .blockHdr [0xB5, 0x3C, 0xA7] with acc := 0x5A, cnt := 7, pos := 1 }) =
      some (2, 0x16, 5, 1) ∧
    cursorAfter (readBits 5 { sess .blockHdr [0xB5, 0x3C, 0xA7] with acc := 0x16, cnt := 5, pos := 1 }) =
      some (22, 0, 0, 1) ∧
    cursorAfter (readBits 7 { sess .blockHdr [0xB5, 0x3C, 0xA7] with acc := 7, cnt := 5, pos := 2 }) =
      some (103, 0x29, 6, 3) := by decide +kernel

/-- V-B2, V-B5 and V-B6. -/
theorem test_vB2_B5_B6 :
    cursorAfter (readBits 16 (sess .blockHdr [0xB5, 0x3C, 0xA7])) = some (0x3CB5, 0, 0, 2) ∧
    cursorAfter (peekBits 16 { sess .blockHdr [0xFF, 0xFF, 0xFF] with acc := 0x7F, cnt := 7, pos := 1 }) =
      some (65535, 0x7FFFFF, 23, 3) ∧
    failure (readBits 1 (sess .blockHdr [])) = some .unexpectedEndOfStream := by decide +kernel

/-! BUILD and DECODE_SYM, V-H1 to V-H4. -/

def built (lens : List Nat) : Option (List (Option Nat)) := val (build lens State.reset)

/-- V-H1, the accepted arrays. -/
theorem test_vH1 :
    built [3, 3, 3, 3, 3, 2, 4, 4] = some [some 2, some 3, some 4, some 5, some 6, some 0, some 14, some 15] ∧
    built [2, 1, 3, 3] = some [some 2, some 0, some 6, some 7] ∧
    built [1, 2, 3] = some [some 0, some 2, some 6] ∧ built [0, 0, 1] = some [none, none, some 0] ∧
    built [0, 5, 0, 5] = some [none, some 0, none, some 1] ∧
    built [15, 15, 1] = some [some 0x4000, some 0x4001, some 0] := by decide +kernel

/-- V-H1, the refused arrays. -/
theorem test_vH1_invalid :
    failure (build [0, 0, 0] State.reset) = some .invalidCodeLengths ∧
    failure (build [1, 1, 1] State.reset) = some .invalidCodeLengths ∧
    failure (build [2, 2, 2, 2, 2] State.reset) = some .invalidCodeLengths ∧
    failure (build [3, 0, 3, 3, 3, 0, 0, 0, 0, 0, 0, 0, 0, 0, 0, 0, 2, 3, 2] State.reset) =
      some .invalidCodeLengths := by decide +kernel

/-- The table of V-S1, as the source gives it. -/
def tableS1 : CodeTable := [(3, 2), (3, 3), (3, 4), (3, 5), (3, 6), (2, 0), (4, 14), (4, 15)]

/-- V-H2, the first and the third call, and V-H3, V-H4. -/
theorem test_vH2_H3_H4 :
    val (decodeSym tableS1 (sess .symbols [0xE8, 0x1E])) = some 5 ∧
    val (decodeSym tableS1 { sess .symbols [0xE8, 0x1E] with acc := 7, cnt := 3, pos := 1 }) = some 6 ∧
    failure (decodeSym [(0, 0), (0, 0), (1, 0)] (sess .symbols [0x01])) = some .corruptHuffmanCode ∧
    failure (decodeSym [(2, 0), (2, 1), (2, 2)] (sess .symbols [0x03])) = some .corruptHuffmanCode ∧
    val (decodeSym [(2, 0), (2, 1), (2, 2)] (sess .symbols [0x01])) = some 2 ∧
    failure (decodeSym tableS1 (sess .symbols [])) = some .unexpectedEndOfStream := by decide +kernel

/-- 41_huffman_builder.md R123: BUILD gives the codes written out in `withCl` and `withLd`. -/
theorem test_builds :
    (nxt (step sBuildCl)).map (fun t => (t.clCode, t.idx, t.phase)) = some (sCl.clCode, 0, .clSyms) ∧
    built sSym.dLens = some ((List.range 32).map some) ∧
    built sSym.llLens = some (List.replicate 256 none ++ (List.range 32).map some) := by decide +kernel

/-! The elements of the header. -/

/-- V-X1 to V-X4: BLK and its reserved forms, one step. -/
theorem test_step_blk :
    (nxt (step sBlk)).map (fun t => (t.bfinal, t.phase, t.cnt, t.pos)) = some (1, .dynCounts, 5, 1) ∧
    ([1, 3, 7, 0, 2, 6].all fun b : Nat =>
      (nxt (step (sess .blockHdr [BitVec.ofNat 8 b]))).map (fun t => (t.errCode, t.status)) = some (6, .fault)) = true := by
  decide +kernel

/-- V-D1: `hclen` = 14; V-S7: the ranges of the counts. -/
theorem test_hdr :
    (nxt (exec (.hdr 31 31 15) sHdr)).map (fun t => (t.nlit, t.ndist, t.ncl)) = some (288, 32, 19) ∧
    (nxt (step sHdr)).map (fun t => (t.hlit, t.hdist, t.hclen, t.phase)) = some (0, 0, 14, .clLens) := by decide +kernel

/-- V-D2: the first value goes to slot 16, the fourth to slot 0 and ends a header with `ncl` = 4; the 19th to slot 15. -/
theorem test_cllen :
    (nxt (exec (.cllen 1) sCll)).map (fun t => (t.clLen[16], t.cli, t.phase)) = some (1, 1, .clLens) ∧
    (nxt (exec (.cllen 1) { sCll with cli := 3 })).map (fun t => (t.clLen[0], t.cli, t.phase)) = some (1, 4, .buildCl) ∧
    (nxt (exec (.cllen 7) { sCll with hclen := 15, cli := 18 })).map (fun t => (t.clLen[15], t.phase)) =
      some (7, .buildCl) := by decide +kernel

/-- 42_dynamic_header.md R145: each length code writes its own number at `idx`. -/
theorem test_cl_literals :
    ([(Instr.cl0, 0), (.cl1, 1), (.cl2, 2), (.cl3, 3), (.cl4, 4), (.cl5, 5), (.cl6, 6), (.cl7, 7), (.cl8, 8),
      (.cl9, 9), (.cl10, 10), (.cl11, 11), (.cl12, 12), (.cl13, 13), (.cl14, 14), (.cl15, 15)].all
        fun p : Instr × BitVec 4 =>
      (nxt (exec p.1 sClAt5)).map (fun t => (t.lensAt 4, t.lensAt 5, t.lensAt 6, t.idx)) = some (7, p.2, 7, 6)) = true := by
  decide +kernel

/-- V-S7 and V-S4: CL16 repeats 3 to 6 times; first of all it fails. -/
theorem test_cl16 :
    (nxt (exec (.cl16 3) { sClAt5 with lens := sClAt5.lens.set 4 9 })).map
      (fun t => (t.lensAt 3, t.lensAt 5, t.lensAt 10, t.lensAt 11, t.idx)) = some (7, 9, 9, 7, 11) ∧
    (nxt (exec (.cl16 0) sCl)).map (fun t => t.errCode) = some 3 := by decide +kernel

/-- V-D4 and V-D5: the second run of CL18 passes `total` = 258, or fills it exactly; CL17 writes zeros. -/
theorem test_zero_runs :
    (nxt (exec (.cl18 127) { sCl with idx := 138 })).map (fun t => (t.errCode, t.idx)) = some (3, 138) ∧
    (nxt (exec (.cl18 109) { sCl with idx := 138 })).map (fun t => (t.idx, t.phase)) = some (258, .buildLd) ∧
    (nxt (exec (.cl17 7) sClAt5)).map (fun t => (t.lensAt 4, t.lensAt 5, t.lensAt 14, t.lensAt 15, t.idx)) =
      some (7, 0, 0, 7, 15) := by decide +kernel

/-! The symbols of a block. -/

/-- V-F1, V-F11: a literal appends its byte, or meets the capacity. -/
theorem test_lit :
    (nxt (exec (.lit 0x61) sSym)).map (fun t => (t.out, t.olen)) = some ([(0, 0x61)], 1) ∧
    (nxt (exec (.lit 0x61) { sSym with outCap := some 0 })).map (fun t => (t.out, t.errCode)) = some ([], 8) := by
  decide +kernel

/-- V-F2: EOB of the final block and of another. -/
theorem test_eob :
    (nxt (exec .eob { sSym with bfinal := 1 })).map (fun t => (t.status, t.phase)) = some (.done, .done) ∧
    (nxt (exec .eob sSym)).map (fun t => (t.status, t.phase)) = some (.busy, .blockHdr) := by decide +kernel

/-- V-F3 and V-S8: lengths at the end points of the table. -/
theorem test_lengths :
    ([(Instr.len257, 3), (.len258, 4), (.len259, 5), (.len264, 10), (.len265 0, 11), (.len265 1, 12), (.len269 3, 22),
      (.len273 4, 39), (.len281 31, 162), (.len284 30, 257), (.len284 31, 258), (.len285, 258)].all
        fun p : Instr × Nat => (nxt (exec p.1 sSym)).map (·.length) = some p.2) = true := by decide +kernel

/-- V-F3 and V-S8: distances at the end points of the table; past the output each is InvalidDistance. -/
theorem test_distances :
    ([(Instr.dist0, 1), (.dist1, 2), (.dist2, 3), (.dist3, 4), (.dist4 0, 5), (.dist4 1, 6), (.dist5 0, 7), (.dist6 0, 9),
      (.dist6 1, 10), (.dist7 0, 13), (.dist10 12, 45), (.dist28 8191, 24576), (.dist29 0, 24577),
      (.dist29 8191, 32768)].all fun p : Instr × Nat =>
        (nxt (exec p.1 sSym)).map (fun t => (t.distance, t.errCode)) = some (p.2, 7)) = true := by decide +kernel

/-- 43_block_symbols.md R165, R168: each range begins where the one before it ends; LEN284 alone overlaps LEN285. -/
theorem test_ranges_abut :
    ((List.range 27).all fun i => lenBase.getD (i + 1) 0 = lenBase.getD i 0 + 2 ^ lenExtra.getD i 0) = true ∧
    ((List.range 29).all fun m => distBase.getD (m + 1) 0 = distBase.getD m 0 + 2 ^ distExtra.getD m 0) = true ∧
    lenBase.length = 29 ∧ distBase.length = 30 := by decide +kernel

/-- V-F4 and V-S2: overlapping copies. -/
theorem test_copy :
    (nxt (exec .dist1 { sOut with outCap := none })).map (fun t => (t.out.map (·.2), t.olen)) =
      some ([0x61, 0x62, 0x61, 0x62, 0x61, 0x62, 0x61], 7) ∧
    (nxt (exec .dist0 { sOut with out := [(0, 0x58)], olen := 1 })).map (fun t => t.out.map (·.2)) =
      some [0x58, 0x58, 0x58, 0x58, 0x58, 0x58] ∧
    (nxt (exec .dist0 { sOut with outCap := some 6 })).map (fun t => (t.olen, t.errCode)) = some (2, 8) := by
  decide +kernel

/-- V-F9, V-F10: the reserved symbols. -/
theorem test_reserved :
    ([Instr.ll286, .ll287, .d30, .d31].all fun i =>
      (nxt (exec i sOut)).map (fun t => (t.errCode, t.out)) = some (4, sOut.out)) = true := by decide +kernel

/-- P2, bit 111: LEN259 with DIST0 is one step: here LEN265 extra=1 with DIST4 extra=1, length 12 and distance 6. -/
theorem test_back_reference_is_one_step :
    (nxt (step { sSym with out := Memory.ofBytes [1, 2, 3, 4, 5, 6], olen := 6 })).map
      (fun t => (t.length, t.distance, t.olen, t.bitpos)) = some (12, 6, 18, 12) := by decide +kernel

/-- V-X9: CL16 as the first code-length symbol fails before its missing extra bits. -/
theorem test_vX9 :
    (nxt (step (withCl (sess .clSyms [0x17])))).map (·.errCode) = some 3 ∧
    (nxt (step { withCl { sess .clSyms [0xB8] with pos := 1, cnt := 5, acc := 0x17 } with idx := 1 })).map (·.errCode) =
      some 1 := by decide +kernel

/-! The host and the codes it reads. -/

/-- 10_state.md R27, R30; 60_exceptions.md R211. -/
theorem test_codes :
    [Status.idle, .busy, .done, .fault].map (·.value) = [0, 1, 2, 3] ∧
    [Phase.idle, .blockHdr, .dynCounts, .clLens, .buildCl, .clSyms, .buildLd, .symbols, .done, .fault].map (·.value) =
      [0, 1, 2, 3, 4, 5, 6, 7, 8, 9] ∧
    [Failure.unexpectedEndOfStream, .invalidCodeLengths, .invalidRunLength, .invalidSymbol, .corruptHuffmanCode,
      .unsupportedBlockType, .invalidDistance, .outputCapacityExceeded].map (·.code) = [1, 2, 3, 4, 5, 6, 7, 8] := by decide

/-- V-X7: `start_pos` = 2 puts the bit position at 16. -/
theorem test_start :
    (nxt (step (State.reset.askStart [0x1F, 0x8B, 0x05] 2 none))).map (fun t => (t.bitpos, t.status, t.phase)) =
      some (16, .busy, .blockHdr) := by decide +kernel

/-! Witnesses: for each obligation with hypotheses, a state and operands that meet them. -/

/-- One running state in each phase that enables a step. Meets the hypotheses of `RunningSessionNeverStops`,
`BlockHeaderStep`, `HeaderCountsStep`, `CodeLengthCodeLengthStep`, `BuildCodeLengthCodeStep` and `BuildBlockCodesStep` on the state. -/
theorem witness_running :
    sBlk.Running ∧ sHdr.Running ∧ sCll.Running ∧ sBuildCl.Running ∧ sCl.Running ∧ sClAt5.Running ∧ sBuildLd.Running ∧
      sSym.Running ∧ sOut.Running := by
  refine ⟨?_, ?_, ?_, ?_, ?_, ?_, ?_, ?_, ?_⟩ <;> exact running_of (by decide +kernel)

theorem witness_StepRunsDecodedElement :
    (sBlk.hostCmd = none ∧ sBlk.status = .busy ∧ ∃ t, fetchElement sBlk = .ok (.blk 1 2) t) ∧
    (sSym.hostCmd = none ∧ sSym.status = .busy ∧ ∃ t, fetchElement sSym = .ok (.len265 1) t) ∧
    ∃ v, fetchDist sSym = .ok (.dist9 1) v :=
  ⟨⟨rfl, rfl, of_val (by decide +kernel)⟩, ⟨rfl, rfl, of_val (by decide +kernel)⟩, of_val (by decide +kernel)⟩

/-- All hypotheses of `DecodeOfEncode`, on `s` and `i`. -/
def DecodeHyps (s : State) (i : Instr) : Prop :=
  ∃ bits rest, s.CursorOk ∧ s.cnt ≤ 7 ∧ s.wlen = 0 ∧ s.wval = 0 ∧ i.wf = true ∧ i.phase = s.phase ∧
    (∀ a sym w e, i.layout = .coded a sym w e →
      (tableOf s a).sound = true ∧ ¬ (a = .cl ∧ sym = 16 ∧ s.idx = 0)) ∧
    encode s i = some bits ∧ s.unread = bits ++ rest

def decodeCheck (s : State) (i : Instr) : Bool :=
  cursorCheck s && tableCheck s i &&
    decide (s.cnt ≤ 7 ∧ s.wlen = 0 ∧ s.wval = 0 ∧ i.wf = true ∧ i.phase = s.phase ∧
      ∃ bits ∈ encode s i, bits <+: s.unread)

theorem decodeHyps_of {s : State} {i : Instr} (h : decodeCheck s i = true) : DecodeHyps s i := by
  obtain ⟨h, h3⟩ := Bool.and_eq_true_iff.1 h
  obtain ⟨h1, h2⟩ := Bool.and_eq_true_iff.1 h
  obtain ⟨a, b, c, d, e, bits, hb, rest, hr⟩ := of_decide_eq_true h3
  exact ⟨bits, rest, cursor_of h1, a, b, c, d, e, table_of h2, hb, hr.symm⟩

/-- A fixed format, each alphabet, with operands not zero. -/
theorem witness_DecodeOfEncode :
    DecodeHyps sBlk (.blk 1 2) ∧ DecodeHyps sHdr (.hdr 0 0 14) ∧ DecodeHyps sCll (.cllen 5) ∧
      DecodeHyps sClAt5 (.cl16 1) ∧ DecodeHyps sSym (.len265 1) ∧ DecodeHyps sSym (.dist9 1) := by
  refine ⟨?_, ?_, ?_, ?_, ?_, ?_⟩ <;> exact decodeHyps_of (by decide +kernel)

theorem witness_StepExecutesEncodedElement :
    (sBlk.Running ∧ DecodeHyps sBlk (.blk 1 2) ∧ (Instr.blk 1 2).isLength = false ∧ (Instr.blk 1 2).isDistance = false) ∧
    (sClAt5.Running ∧ DecodeHyps sClAt5 (.cl16 1) ∧ (Instr.cl16 1).isLength = false ∧
      (Instr.cl16 1).isDistance = false) :=
  ⟨⟨running_of (by decide +kernel), decodeHyps_of (by decide +kernel), by decide, by decide⟩,
    ⟨running_of (by decide +kernel), decodeHyps_of (by decide +kernel), by decide, by decide⟩⟩

theorem witness_StepExecutesBackReference :
    sSym.Running ∧ sSym.phase = .symbols ∧ (Instr.len265 1).layout = .coded .ll 265 1 1 ∧
      (Instr.len265 1).isLength = true ∧ (Instr.dist4 1).isDistance = true ∧ sSym.llTable.sound = true ∧
      sSym.dTable.sound = true ∧ encode sSym (.len265 1) = some [false, true, false, false, true, true] ∧
      encode sSym (.dist4 1) = some [false, false, true, false, false, true] ∧
      sSym.unread = [false, true, false, false, true, true] ++ [false, false, true, false, false, true] ++
        List.replicate 12 false :=
  ⟨running_of (by decide +kernel), rfl, rfl, by decide, by decide, by decide +kernel, by decide +kernel,
    by decide +kernel, by decide +kernel, by decide +kernel⟩

/-- A cursor inside the source, at its last byte, and at its end. -/
theorem witness_FetchReadsTheNextByte :
    (sBlk.CursorOk ∧ sBlk.pos < sBlk.srcLen) ∧
    ((sess .blockHdr []).CursorOk ∧ (sess .blockHdr []).pos = (sess .blockHdr []).srcLen) :=
  ⟨⟨cursor_of (by decide +kernel), by decide⟩, ⟨cursor_of (by decide +kernel), by decide⟩⟩

/-- The widest read that the 24 bits left allow, one that takes the very last bit, and one bit too many. -/
theorem witness_ReadBitsDeliversStreamBits :
    (sBlk.CursorOk ∧ sBlk.cnt ≤ 7 ∧ sBlk.bitpos + 16 ≤ 8 * sBlk.srcLen) ∧
    (sCll.CursorOk ∧ sCll.cnt ≤ 7 ∧ sCll.bitpos + 8 = 8 * sCll.srcLen ∧ 8 * sCll.srcLen < sCll.bitpos + 9) :=
  ⟨⟨cursor_of (by decide +kernel), by decide, by decide⟩,
    ⟨cursor_of (by decide +kernel), by decide, by decide, by decide⟩⟩

/-- A read and a peek that succeed, and a read that fails, from a cursor within its bounds. -/
theorem witness_ReadsKeepTheCursorBounds :
    sBlk.cnt ≤ 23 ∧ sBlk.acc.toNat < 2 ^ sBlk.cnt ∧ (∃ t, readBits 16 sBlk = .ok 0xC005 t) ∧
      (∃ t, peekBits 16 sBlk = .ok 0xC005 t) ∧ ∃ t, readBits 9 sCll = .raised t :=
  ⟨by decide, by decide, of_val (by decide +kernel), of_val (by decide +kernel), ⟨_, rfl⟩⟩

theorem witness_WideReadIsRefused : 16 < 17 := by decide

theorem witness_PeekThenReadAgree : ∃ t, peekBits 13 sBlk = .ok 5 t := of_val (by decide +kernel)

/-- V-B7: 1 bit, then 2. -/
theorem witness_ReadsCompose :
    1 + 2 ≤ 16 ∧ sBlk.cnt ≤ 23 ∧ sBlk.acc.toNat < 2 ^ sBlk.cnt ∧
      ∃ t u, readBits 1 sBlk = .ok 1 t ∧ readBits 2 t = .ok 2 u :=
  ⟨by decide, by decide, by decide, _, _, rfl, rfl⟩

theorem witness_AllZeroLengthsAreInvalid : ∀ l ∈ [0, 0, 0], l = 0 := by decide

/-- A complete array, an incomplete one and one codeword too many. -/
theorem witness_OversubscribedLengthsAreInvalid :
    ((∀ l ∈ [1, 1], l ≤ 15) ∧ 0 < kraft [1, 1] ∧ kraft [1, 1] = 2 ^ 15) ∧
    ((∀ l ∈ [0, 15], l ≤ 15) ∧ 0 < kraft [0, 15] ∧ kraft [0, 15] ≤ 2 ^ 15) ∧
    ((∀ l ∈ [1, 1, 15], l ≤ 15) ∧ 0 < kraft [1, 1, 15] ∧ 2 ^ 15 < kraft [1, 1, 15]) := by decide

/-- V-S1. Also for `CanonicalCodesArePrefixFree`. -/
theorem witness_CanonicalCodeClosedForm :
    (∀ l ∈ [3, 3, 3, 3, 3, 2, 4, 4], l ≤ 15) ∧ 0 < kraft [3, 3, 3, 3, 3, 2, 4, 4] ∧
      canonicalCodes [3, 3, 3, 3, 3, 2, 4, 4] =
        .ok ([some 2, some 3, some 4, some 5, some 6, some 0, some 14, some 15], 16) := by
  refine ⟨by decide, by decide, rfl⟩

/-- Two symbols of one length with codes, and two of different lengths. -/
theorem witness_CanonicalCodesArePrefixFree :
    canonicalCodes [0, 5, 0, 5] = .ok ([none, some 0, none, some 1], 2) ∧ 1 < 3 ∧ [0, 5, 0, 5][1]? = some 5 ∧
      [0, 5, 0, 5][3]? = some 5 ∧ (∀ l ∈ [0, 5, 0, 5], l ≤ 15) ∧ 0 < kraft [0, 5, 0, 5] :=
  ⟨rfl, by decide, rfl, rfl, by decide, by decide⟩

/-- Every clause of `DecodeSymOutcomes`: symbol 6 of V-S1 at the bit position; a walk that leaves the code at its second bit
(V-H3); an empty source and a source that ends inside a codeword (V-H4). -/
theorem witness_DecodeSymOutcomes :
    (tableS1.sound = true ∧ (sess .symbols [0x07]).CursorOk ∧ tableS1[6]? = some (4, 14) ∧
      (sess .symbols [0x07]).unread = codewordBits 4 14 ++ List.replicate 4 false) ∧
    (CodeTable.sound [(2, 0), (2, 1), (2, 2)] = true ∧ (sess .symbols [0x03]).CursorOk ∧
      (sess .symbols [0x03]).unread = [true] ++ true :: List.replicate 6 false ∧
      (∃ cw ∈ CodeTable.codewords [(2, 0), (2, 1), (2, 2)], [true] <+: cw) ∧
      ∀ cw ∈ CodeTable.codewords [(2, 0), (2, 1), (2, 2)], ¬ cw <+: [true] ++ [true] ∧ ¬ [true] ++ [true] <+: cw) ∧
    ((sess .symbols []).CursorOk ∧ (sess .symbols []).unread = []) ∧
    ({ sess .symbols [0xFF] with acc := 3, cnt := 2, pos := 1 : State }.CursorOk ∧
      ∃ cw ∈ tableS1.codewords, { sess .symbols [0xFF] with acc := 3, cnt := 2, pos := 1 : State }.unread <+: cw ∧
        { sess .symbols [0xFF] with acc := 3, cnt := 2, pos := 1 : State }.unread ≠ cw) :=
  ⟨⟨by decide +kernel, cursor_of (by decide +kernel), rfl, by decide +kernel⟩,
    ⟨by decide +kernel, cursor_of (by decide +kernel), by decide +kernel, by decide +kernel, by decide +kernel⟩,
    ⟨cursor_of (by decide +kernel), by decide +kernel⟩,
    ⟨cursor_of (by decide +kernel), by decide +kernel⟩⟩

/-- Exactly three bits there, exactly fourteen, and exactly three. -/
theorem witness_exact_widths :
    ({ sess .blockHdr [0xA0] with acc := 5, cnt := 3, pos := 1 : State }.Running ∧
      { sess .blockHdr [0xA0] with acc := 5, cnt := 3, pos := 1 : State }.unread = [true, false, true]) ∧
    ({ sess .dynCounts [0x04, 0x38] with acc := 1, cnt := 6, pos := 1 : State }.Running ∧
      { sess .dynCounts [0x04, 0x38] with acc := 1, cnt := 6, pos := 1 : State }.unread.length = 14) ∧
    ({ sess .clLens [0xA0] with acc := 5, cnt := 3, pos := 1 : State }.Running ∧
      { sess .clLens [0xA0] with acc := 5, cnt := 3, pos := 1 : State }.unread = [true, false, true]) :=
  ⟨⟨running_of (by decide +kernel), by decide +kernel⟩, ⟨running_of (by decide +kernel), by decide +kernel⟩,
    ⟨running_of (by decide +kernel), by decide +kernel⟩⟩

/-- Three bits there (a dynamic block and a stored one), and two bits only. -/
theorem witness_BlockHeaderStep :
    (sBlk.Running ∧ sBlk.phase = .blockHdr ∧ ∃ rest, sBlk.unread = true :: false :: true :: rest) ∧
    ((sess .blockHdr [0x01]).Running ∧ ∃ rest, (sess .blockHdr [0x01]).unread = true :: false :: false :: rest) ∧
    ({ sess .blockHdr [0x40] with acc := 1, cnt := 2, pos := 1 : State }.Running ∧
      { sess .blockHdr [0x40] with acc := 1, cnt := 2, pos := 1 : State }.unread.length < 3) :=
  ⟨⟨running_of (by decide +kernel), rfl, _, rfl⟩, ⟨running_of (by decide +kernel), _, rfl⟩,
    ⟨running_of (by decide +kernel), by decide +kernel⟩⟩

/-- Fourteen bits there, and thirteen only. -/
theorem witness_HeaderCountsStep :
    (sHdr.Running ∧ sHdr.phase = .dynCounts ∧
      sHdr.unread = [false, false, false, false, false] ++ [false, false, false, false, false] ++
        [false, true, true, true] ++ [false, false]) ∧
    ({ sess .dynCounts [0x08, 0x00] with acc := 1, cnt := 5, pos := 1 : State }.Running ∧
      { sess .dynCounts [0x08, 0x00] with acc := 1, cnt := 5, pos := 1 : State }.unread.length = 13) :=
  ⟨⟨running_of (by decide +kernel), rfl, by decide +kernel⟩, ⟨running_of (by decide +kernel), by decide +kernel⟩⟩

/-- The first slot and the last of CL_ORDER. -/
theorem witness_CodeLengthCodeLengthElement :
    clOrder[sCll.cli]? = some 16 ∧ clOrder[{ sCll with cli := 18 : State }.cli]? = some 15 := by decide

/-- Three bits there, the last code-length code length of a header, and two bits only. -/
theorem witness_CodeLengthCodeLengthStep :
    (sCll.Running ∧ sCll.phase = .clLens ∧ ∃ rest, sCll.unread = true :: false :: true :: rest) ∧
    ({ sCll with hclen := 15, cli := 18 : State }.Running) ∧
    ({ sess .clLens [0x40] with acc := 1, cnt := 2, pos := 1 : State }.Running ∧
      { sess .clLens [0x40] with acc := 1, cnt := 2, pos := 1 : State }.unread.length < 3) :=
  ⟨⟨running_of (by decide +kernel), rfl, _, rfl⟩, running_of (by decide +kernel),
    ⟨running_of (by decide +kernel), by decide +kernel⟩⟩

/-- A usable code-length code, one that is all zero and one that is over-subscribed. -/
theorem witness_BuildCodeLengthCodeStep :
    (sBuildCl.hostCmd = none ∧ sBuildCl.status = .busy ∧ sBuildCl.phase = .buildCl) ∧
    usable sBuildCl.clLens = true ∧
    usable { sBuildCl with clLen := Vector.replicate 19 0 : State }.clLens = false ∧
    usable { sBuildCl with clLen := Vector.replicate 19 1 : State }.clLens = false := by decide +kernel

/-- Both codes usable; the first alone; the second alone. -/
theorem witness_BuildBlockCodesStep :
    (sBuildLd.hostCmd = none ∧ sBuildLd.status = .busy ∧ sBuildLd.phase = .buildLd) ∧
    (usable sBuildLd.llLens = true ∧ usable sBuildLd.dLens = true) ∧
    (usable { withLits sBuildLd with hdist := 0 : State }.llLens = true ∧
      usable { withLits sBuildLd with hdist := 0 : State }.dLens = false) ∧
    (usable (noLl sBuildLd).llLens = false ∧ usable (noLl sBuildLd).dLens = true) := by
  decide +kernel

/-- The least and the greatest length, in the middle of the array and at its last entry. -/
theorem witness_CodeLengthLiterals :
    Instr.cl0.layout = .coded .cl 0 0 0 ∧ Instr.cl15.layout = .coded .cl 15 0 0 ∧ sClAt5.idx < sClAt5.total ∧
      { sCl with hlit := 31, hdist := 31, idx := 319 : State }.idx <
        { sCl with hlit := 31, hdist := 31, idx := 319 : State }.total := by decide

/-- Room for the run, room for exactly the run, nothing before it, one entry too many. -/
theorem witness_RepeatPreviousLength :
    (sClAt5.idx ≠ 0 ∧ sClAt5.idx + (3 + (3 : BitVec 2).toNat) ≤ sClAt5.total) ∧
    ({ sCl with idx := 252 : State }.idx + (3 + (3 : BitVec 2).toNat) = { sCl with idx := 252 : State }.total) ∧
    sCl.idx = 0 ∧
    ({ sCl with idx := 253 : State }.idx ≠ 0 ∧
      { sCl with idx := 253 : State }.total < { sCl with idx := 253 : State }.idx + (3 + (3 : BitVec 2).toNat)) := by
  decide

/-- The longest runs that fit, and the same one entry further on. -/
theorem witness_ZeroRuns :
    (∃ x : BitVec 3, Instr.cl17 7 = .cl17 x ∧ 7 = x.toNat ∧ { sCl with idx := 248 : State }.idx + (3 + 7) ≤
      { sCl with idx := 248 : State }.total) ∧
    (∃ x : BitVec 7, Instr.cl18 127 = .cl18 x ∧ 127 = x.toNat ∧ { sCl with idx := 120 : State }.idx + (11 + 127) ≤
      { sCl with idx := 120 : State }.total) ∧
    { sCl with idx := 249 : State }.total < { sCl with idx := 249 : State }.idx + (3 + 7) ∧
    { sCl with idx := 121 : State }.total < { sCl with idx := 121 : State }.idx + (11 + 127) :=
  ⟨⟨7, rfl, rfl, by decide⟩, ⟨127, rfl, rfl, by decide⟩, by decide, by decide⟩

/-- V-X9: the codeword of CL16 are the last bits of the source. -/
theorem witness_RepeatWithNothingWrittenFails :
    { withCl (sess .clSyms [0xB8]) with acc := 0x17, cnt := 5, pos := 1 : State }.Running ∧
      { withCl (sess .clSyms [0xB8]) with acc := 0x17, cnt := 5, pos := 1 : State }.idx = 0 ∧
      { withCl (sess .clSyms [0xB8]) with acc := 0x17, cnt := 5, pos := 1 : State }.clTable.sound = true ∧
      { withCl (sess .clSyms [0xB8]) with acc := 0x17, cnt := 5, pos := 1 : State }.clTable[16]? = some (5, 29) ∧
      { withCl (sess .clSyms [0xB8]) with acc := 0x17, cnt := 5, pos := 1 : State }.unread = codewordBits 5 29 ++ [] :=
  ⟨running_of (by decide +kernel), rfl, by decide +kernel, by decide +kernel, by decide +kernel⟩

/-- Unbounded, room for one byte, and none. -/
theorem witness_LiteralAppends :
    (∀ cap, sSym.outCap = some cap → sSym.olen + 1 ≤ cap) ∧
    (∀ cap, { sOut with outCap := some 3 : State }.outCap = some cap → { sOut with outCap := some 3 : State }.olen + 1 ≤ cap) ∧
    ({ sOut with outCap := some 2 : State }.outCap = some 2 ∧ 2 < { sOut with outCap := some 2 : State }.olen + 1) := by
  refine ⟨nofun, fun cap h => ?_, rfl, by decide⟩
  cases h
  decide

theorem witness_EndOfBlock : sDone.bfinal = 1 ∧ sSym.bfinal = 0 := by decide

/-- The shortest and the longest length, with and without extra bits. -/
theorem witness_LengthElements :
    (Instr.len257.layout = .coded .ll 257 0 0 ∧ Instr.len257.isLength = true) ∧
    ((Instr.len284 31).layout = .coded .ll 284 5 31 ∧ (Instr.len284 31).isLength = true) ∧
    (Instr.len285.layout = .coded .ll 285 0 0 ∧ Instr.len285.isLength = true) := by decide

/-- V-F4: "ab", length 5, distance 2 = `olen`, with an `OUT_CAP` just large enough. -/
theorem witness_DistanceElementsCopy :
    Instr.dist1.layout = .coded .d 1 0 0 ∧ 2 = distBase.getD 1 0 + 0 ∧ 2 ≤ sOut.olen ∧
      (∀ cap, { sOut with outCap := some 7 : State }.outCap = some cap → sOut.olen + sOut.length ≤ cap) ∧
      0 < sOut.length ∧ ∀ a < sOut.olen, (sOut.out.read a).isSome = true :=
  ⟨rfl, rfl, by decide, fun cap h => by cases h; decide, by decide, by decide⟩

/-- One past `olen`, and the greatest distance. -/
theorem witness_DistanceBeyondOutputFails :
    (Instr.dist2.layout = .coded .d 2 0 0 ∧ 3 = distBase.getD 2 0 + 0 ∧ sOut.olen < 3) ∧
    ((Instr.dist29 8191).layout = .coded .d 29 13 8191 ∧ 32768 = distBase.getD 29 0 + 8191 ∧ sOut.olen < 32768) := by
  decide

/-- One byte short. -/
theorem witness_CopyBeyondCapacityFails :
    Instr.dist1.layout = .coded .d 1 0 0 ∧ 2 = distBase.getD 1 0 + 0 ∧ 2 ≤ sOut.olen ∧
      { sOut with outCap := some 6 : State }.outCap = some 6 ∧ 6 < sOut.olen + sOut.length := by decide

/-- V-X1. -/
theorem witness_FaultIsPrecise :
    ∃ t, (sess .blockHdr [0x01]).hostCmd = none ∧ step (sess .blockHdr [0x01]) = .next t ∧ t.status = .fault :=
  ⟨_, rfl, rfl, rfl⟩

/-- States that meet `Inv` in IDLE, BUSY, DONE and FAULT; also for `CollectedResult` and `StepKeepsInvariant`. -/
theorem witness_inv : State.reset.Inv ∧ sBlk.Inv ∧ sDone.Inv ∧ sFault.Inv := by
  refine ⟨?_, ?_, ?_, ?_⟩ <;> exact inv_of (by decide +kernel)

/-- Each case of `ErrIsWrittenByRaiseOnly` and `StatusTransitions`: START, RESET, a step that goes on, one that raises, and the last
EOB. -/
theorem witness_ErrIsWrittenByRaiseOnly :
    (sFault.hostCmd = none ∧ sFault.status = .fault) ∧
    (∃ t, step (sFault.askStart [0x05] 0 none) = .next t) ∧
    (∃ t, step { sBlk with hostCmd := some .reset } = .next t) ∧
    (∃ t, step sBlk = .next t ∧ t.status ≠ .fault) ∧
    (∃ t, step (sess .blockHdr [0x01]) = .next t ∧ t.status = .fault) :=
  ⟨⟨rfl, rfl⟩, ⟨_, rfl⟩, ⟨_, rfl⟩, ⟨_, rfl, by decide +kernel⟩, ⟨_, rfl, rfl⟩⟩

theorem witness_StatusTransitions :
    ∃ t, { withLd (sess .symbols [0x00]) with bfinal := 1 : State }.hostCmd = none ∧
      step { withLd (sess .symbols [0x00]) with bfinal := 1 } = .next t :=
  (of_nxt (by decide +kernel)).elim fun t h => ⟨t, rfl, h⟩

theorem witness_NoStepWithoutSession :
    (State.reset.hostCmd = none ∧ State.reset.status ≠ .busy) ∧ (sDone.hostCmd = none ∧ sDone.status ≠ .busy) ∧
      (sFault.hostCmd = none ∧ sFault.status ≠ .busy) := by decide

/-- Accepted at the very end of the source, one past it, and while BUSY. -/
theorem witness_StartBeginsASession :
    ((State.reset.askStart [0x05] 1 none).hostCmd = some (.start [0x05] 1 none) ∧
      (State.reset.askStart [0x05] 1 none).status ≠ .busy ∧ 1 ≤ [(0x05 : Byte)].length) ∧
    [(0x05 : Byte)].length < 2 ∧ (sBlk.askStart [0x05] 0 none).status = .busy := by decide

theorem witness_ResetAbandonsTheSession : { sOut with hostCmd := some .reset : State }.hostCmd = some .reset := rfl

theorem witness_CollectedResult : sDone.status = .done ∧ sFault.status ≠ .done := by decide

theorem witness_StepKeepsInvariant : sBlk.Inv ∧ ∃ t, step sBlk = .next t := ⟨inv_of (by decide +kernel), _, rfl⟩

/-- Every register at the top of its range, and one step from there. -/
def sTop : State :=
  { sBlk with
    cli := 19, idx := 320, sym := 287, extra := 8191, rep := 138, length := 258, dsym := 31, distance := 32768
    offset := 257, code := 32768 }

theorem witness_StepKeepsRegisterWidths : sTop.Fits ∧ ∃ t, step sTop = .next t :=
  ⟨⟨by decide, by decide, by decide, by decide, by decide, by decide, by decide, by decide, by decide, by decide,
    by decide, by decide, by decide⟩, of_nxt (by decide +kernel)⟩

/-- Both phases that decode with a table; also for `BuiltTablesAreSound`. -/
theorem witness_StepKeepsCodeTables :
    (sCl.TablesBuilt ∧ sCl.phase = .clSyms ∧ ∃ t, step { sCl with idx := 1 } = .next t) ∧
    (sSym.TablesBuilt ∧ sSym.phase = .symbols ∧ ∃ t, step sSym = .next t) :=
  ⟨⟨⟨fun _ => holds_of (by decide +kernel), nofun, nofun⟩, rfl, of_nxt (by decide +kernel)⟩,
    ⟨⟨nofun, fun _ => holds_of (by decide +kernel), fun _ => holds_of (by decide +kernel)⟩, rfl,
      of_nxt (by decide +kernel)⟩⟩

/-- A step that appends to OUT. -/
theorem witness_StepOnlyMovesForward :
    ∃ t, { withLits sOut with src := Memory.ofBytes [0x61, 0, 0] }.hostCmd = none ∧
      step { withLits sOut with src := Memory.ofBytes [0x61, 0, 0] } = .next t :=
  (of_nxt (by decide +kernel)).elim fun t h => ⟨t, rfl, h⟩

theorem witness_StepsLeftFalls : sBlk.Running ∧ ∃ t, step sBlk = .next t ∧ t.status = .busy :=
  ⟨running_of (by decide +kernel), _, rfl, by decide +kernel⟩

theorem witness_EverySessionEnds : State.reset.status ≠ .busy ∧ 1 ≤ [(0x05 : Byte), 0xC0].length := by decide

/-- A session that has output already. -/
theorem witness_OutputIsBounded :
    { sSym with pos := 1, out := [(0, 0x58)], olen := 1 : State }.Running ∧
      { sSym with pos := 1, out := [(0, 0x58)], olen := 1 : State }.olen ≤
        129 * ({ sSym with pos := 1, out := [(0, 0x58)], olen := 1 : State }.bitpos -
          8 * sSym.startPos) ∧
      ∃ t, step { sSym with pos := 1, out := [(0, 0x58)], olen := 1 } = .next t :=
  ⟨running_of (by decide +kernel), by decide +kernel, of_nxt (by decide +kernel)⟩

theorem witness_BytesBeforeStartAreNeverRead :
    [(0x1F : Byte), 0x05].length = [(0x8B : Byte), 0x05].length ∧
      ∀ a, 1 ≤ a → [(0x1F : Byte), 0x05][a]? = [(0x8B : Byte), 0x05][a]? := by
  refine ⟨rfl, fun a ha => ?_⟩
  match a, ha with
  | a + 1, _ => rfl

/-- Program P1 (95_test_vectors.md) ends DONE with `61 62 63` and `end_pos` 15, in 35 steps with the START. The one run of these
tests: the hypothesis is about a session that ends. -/
theorem witness_BytesAfterTheEndAreNeverRead :
    observeRun (34 + 1)
      (State.reset.askStart
        [0x05, 0xC0, 0x81, 0x00, 0x00, 0x00, 0x00, 0x80, 0x20, 0xD6, 0xDF, 0xDF, 0xE1, 0xB0, 0x01] 0 none) =
      some (.done [0x61, 0x62, 0x63] 15) := by decide +kernel

theorem witness_EarlierSessionsAreForgotten : sDone.status ≠ .busy ∧ sFault.status ≠ .busy := by decide

theorem witness_RunningSessionNeverStops : sSym.Running := witness_running.2.2.2.2.2.2.2.1

theorem witness_BuiltTablesAreSound :
    (sCl.TablesBuilt ∧ sCl.phase = .clSyms) ∧ (sSym.TablesBuilt ∧ sSym.phase = .symbols) :=
  ⟨⟨witness_StepKeepsCodeTables.1.1, rfl⟩, ⟨witness_StepKeepsCodeTables.2.1, rfl⟩⟩

/-- The last length code of the range (258 with LEN284) and the last distance code (32768 with DIST29). -/
theorem witness_LengthAndDistanceCodesCover :
    (27 < 28 ∧ 31 < 2 ^ lenExtra.getD 27 0 ∧ lenBase.getD 27 0 + 31 = 258) ∧
    (29 < 30 ∧ 8191 < 2 ^ distExtra.getD 29 0 ∧ distBase.getD 29 0 + 8191 = 32768) := by decide

/-! Steps whose symbol does not resolve. -/

/-- The incomplete codes 00, 01, 10 of CL0 to CL2, 00, 01 of symbols 256 and 257, and 00, 01 of distances 0 and 1. -/
def withGaps (s : State) : State :=
  { s with
    clLen := file ([2, 2, 2] ++ List.replicate 16 0) rfl
    clCode := file ([0, 1, 2] ++ List.replicate 16 0) rfl
    hlit := 1, hdist := 1
    lens := file (List.replicate 256 0 ++ [2, 2, 2, 2] ++ List.replicate 60 0) (by decide +kernel)
    llCode := file (List.replicate 256 0 ++ [0, 1] ++ List.replicate 30 0) (by decide +kernel)
    dCode := file ([0, 1] ++ List.replicate 30 0) rfl }

/-- `s` with its last byte read and the `n` bits `v` of it left. -/
def buffered (n : Nat) (v : Acc) (s : State) : State := { s with acc := v, cnt := n, pos := s.srcLen }

/-- CL: after 1 the bit 1 leaves the code; the source ends after 1; CL17 (11110) with two of its three extra bits, near `total`. -/
def clBad : State := withGaps (sess .clSyms [0x03])
def clInside : State := buffered 1 1 (withGaps (sess .clSyms [0x80]))
def clCut : State := { buffered 7 15 (withCl (sess .clSyms [0x1E])) with idx := 257 }

/-- LL: the bit 1 leaves the code; the source ends after 0; LEN265 (01001) without its extra bit. -/
def llBad : State := withGaps (sess .symbols [0x01])
def llInside : State := buffered 1 0 (withGaps (sess .symbols [0x00]))
def llCut : State := buffered 5 0x12 (withLd (sess .symbols [0x90]))

/-- After a whole LEN257: the bit 1 leaves the distance code; the source ends after 0; it ends at once; DIST4 (00100) without its extra
bit, a distance past the output. -/
def dBad : State := withGaps (sess .symbols [0x06])
def dInside : State := buffered 3 2 (withGaps (sess .symbols [0x40]))
def dNone : State := buffered 2 2 (withGaps (sess .symbols [0x80]))
def dCut : State := { withLd (sess .symbols [0x00, 0x24]) with pos := 1, cnt := 2 }

/-- 60_exceptions.md R221: CorruptHuffmanCode is 5, UnexpectedEndOfStream is 1, before InvalidRunLength and InvalidDistance. -/
theorem test_unresolved_steps :
    ([(clBad, 5), (clInside, 1), (clCut, 1), (llBad, 5), (llInside, 1), (llCut, 1), (dBad, 5), (dInside, 1), (dNone, 1),
      (dCut, 1)].all fun p : State × BitVec 4 =>
        (nxt (step p.1)).map (fun t => (t.status, t.errCode)) = some (.fault, p.2)) = true := by decide +kernel

/-- Every clause of `SymbolStepFailures`, in both phases. -/
theorem witness_SymbolStepFailures :
    (clBad.Running ∧ (tableOf clBad .cl).sound = true ∧ clBad.unread = [true] ++ true :: List.replicate 6 false ∧
      (tableOf clBad .cl).leaves [true] true) ∧
    (clInside.Running ∧ (tableOf clInside .cl).endsInside clInside.unread) ∧
    (clCut.Running ∧ (tableOf clCut .cl).sound = true ∧ (Instr.cl17 0).layout = .coded .cl 17 3 0 ∧
      codeword (tableOf clCut .cl) 17 = some [true, true, true, true, false] ∧
      clCut.unread = [true, true, true, true, false] ++ [false, false]) ∧
    (llBad.Running ∧ (tableOf llBad .ll).sound = true ∧ llBad.unread = [] ++ true :: List.replicate 7 false ∧
      (tableOf llBad .ll).leaves [] true) ∧
    (llInside.Running ∧ (tableOf llInside .ll).endsInside llInside.unread) ∧
    (llCut.Running ∧ (tableOf llCut .ll).sound = true ∧ (Instr.len265 0).layout = .coded .ll 265 1 0 ∧
      codeword (tableOf llCut .ll) 265 = some [false, true, false, false, true] ∧
      llCut.unread = [false, true, false, false, true] ++ []) := by
  simp only [CodeTable.leaves, CodeTable.endsInside]
  refine ⟨⟨running_of ?_, ?_⟩, ⟨running_of ?_, ?_⟩, ⟨running_of ?_, ?_⟩, ⟨running_of ?_, ?_⟩, ⟨running_of ?_, ?_⟩,
    ⟨running_of ?_, ?_⟩⟩ <;> decide +kernel

/-- Every clause of `DistanceHalfFailures`. -/
theorem witness_DistanceHalfFailures :
    (dBad.Running ∧ dBad.llTable.sound = true ∧ dBad.dTable.sound = true ∧ Instr.len257.layout = .coded .ll 257 0 0 ∧
      Instr.len257.isLength = true ∧ encode dBad .len257 = some [false, true] ∧
      dBad.unread = [false, true] ++ ([] ++ true :: List.replicate 5 false) ∧ dBad.dTable.leaves [] true) ∧
    (dInside.Running ∧ encode dInside .len257 = some [false, true] ∧ dInside.unread = [false, true] ++ [false] ∧
      dInside.dTable.endsInside [false]) ∧
    (dNone.Running ∧ encode dNone .len257 = some [false, true] ∧ dNone.unread = [false, true] ++ [] ∧
      dNone.dTable.endsInside []) ∧
    (dCut.Running ∧ dCut.llTable.sound = true ∧ dCut.dTable.sound = true ∧
      encode dCut .len257 = some [false, false, false, false, true] ∧ (Instr.dist4 0).layout = .coded .d 4 1 0 ∧
      codeword dCut.dTable 4 = some [false, false, true, false, false] ∧
      dCut.unread = [false, false, false, false, true] ++ ([false, false, true, false, false] ++ [])) := by
  simp only [CodeTable.leaves, CodeTable.endsInside]
  refine ⟨⟨running_of ?_, ?_⟩, ⟨running_of ?_, ?_⟩, ⟨running_of ?_, ?_⟩, ⟨running_of ?_, ?_⟩⟩ <;> decide +kernel

/-- A state that stopped in FAULT with the code 6, for the host's clause of `ErrIsWrittenByRaiseOnly`. -/
theorem witness_fault_code :
    sFault.status = .fault ∧ sFault.err = some .unsupportedBlockType ∧ poll sFault = (3, 6) ∧ observe sFault = .fault 6 := by
  decide

end Sys2Proof.Tests
end

namespace Sys2Proof.Machine

/-! # Progress and termination of a session (00_scope.md R19)

A state of a session that goes on is `State.Live`: the part of `State.Inv` that progress rests on. The one lemma `live_step` says
that such a state has a next state, which has ended or is live again with a smaller `State.stepsLeft`. The three statements of the
family are its corollaries. -/

/-! ## Micro-operations that cannot stop -/

/-- The micro-operation answers a value and a state as `P` says, or raises a typed failure; it meets no stop and no refusal. -/
def Res.Goes {α : Type} (r : Res α) (P : α → State → Prop) : Prop :=
  match r with
  | .ok v s => P v s
  | .raised s => s.status = .fault
  | .stop _ => False
  | .refuse _ => False

theorem Res.goes_raise {α : Type} (f : Failure) (s : State) (P : α → State → Prop) :
    (Res.raised (s.raise f)).Goes P := rfl

theorem Res.Goes.mono {α : Type} {r : Res α} {P Q : α → State → Prop} (h : r.Goes P) (hPQ : ∀ v s, P v s → Q v s) :
    r.Goes Q := by
  cases r with
  | ok v s => exact hPQ v s h
  | raised s => exact h
  | stop x => exact h
  | refuse x => exact h

theorem Res.Goes.bind {α β : Type} {r : Res α} {f : α → State → Res β} {P : α → State → Prop}
    {Q : β → State → Prop} (h : r.Goes P) (hf : ∀ v s, P v s → (f v s).Goes Q) : (r.bind f).Goes Q := by
  cases r with
  | ok v s => exact hf v s h
  | raised s => exact h
  | stop x => exact h.elim
  | refuse x => exact h.elim

theorem Res.Goes.finish {α : Type} {r : Res α} {f : α → State → Host.Outcome State Fault Refusal} {P : α → State → Prop}
    {Q : State → Prop} (h : r.Goes P) (hf : ∀ v s, P v s → ∃ t, f v s = .next t ∧ Q t)
    (hQ : ∀ t, t.status = .fault → Q t) : ∃ t, r.finish f = .next t ∧ Q t := by
  cases r with
  | ok v s => exact hf v s h
  | raised s => exact ⟨s, rfl, hQ s h⟩
  | stop x => exact h.elim
  | refuse x => exact h.elim

/-! ## Reading -/

/-- What a read rests on: the buffered bits were fetched, and SRC lists every byte that is not (20_memory.md R51). -/
structure State.Readable (s : State) : Prop where
  cnt_le : s.cnt ≤ 8 * s.pos
  pos_le : s.pos ≤ s.srcLen
  src_dense : s.src.dense s.srcLen = true

/-- `t` is `s` after a read of at least `n` bits. -/
structure Reads (n : Nat) (s t : State) : Prop where
  frame : WalkOnly s t
  readable : t.Readable
  bitpos_le : s.bitpos + n ≤ t.bitpos

theorem Reads.trans {m n : Nat} {s t u : State} (h : Reads m s t) (h' : Reads n t u) : Reads (m + n) s u where
  frame := h.frame.trans h'.frame
  readable := h'.readable
  bitpos_le := by have := h.bitpos_le; have := h'.bitpos_le; omega

theorem Reads.mono {m n : Nat} {s t : State} (h : Reads n s t) (hm : m ≤ n) : Reads m s t where
  frame := h.frame
  readable := h.readable
  bitpos_le := by have := h.bitpos_le; omega

theorem State.unread_length (s : State) : s.unread.length = 8 * s.srcLen - s.bitpos := by
  simp [State.unread]

/-- The bits that were read stood in the source, so as many fewer are unread. -/
theorem Reads.unread_length_le {n : Nat} {s t : State} (h : Reads n s t) : t.unread.length + n ≤ s.unread.length := by
  have hlen : t.srcLen = s.srcLen := by obtain ⟨_, _, _, _, _, rfl⟩ := h.frame; rfl
  have hend : t.bitpos ≤ 8 * t.srcLen := by have := h.readable.pos_le; simp only [State.bitpos]; omega
  have := h.bitpos_le
  simp only [State.unread_length]
  omega

/-- FETCH in a readable state: one more byte is fetched, and the bit position of what is buffered stays. -/
theorem fetchByte_goes {s : State} (hs : s.Readable) :
    (fetchByte s).Goes fun _ t => s.pos < s.srcLen ∧ t = { s with pos := s.pos + 1 } := by
  cases h : fetchByte s with
  | ok b t =>
    obtain ⟨hp, -, ht⟩ := fetchByte_ok h
    exact ⟨hp, ht⟩
  | raised t => rw [(fetchByte_raised h).2]; rfl
  | stop x =>
    obtain ⟨-, hp, hb⟩ := fetchByte_stop h
    have := (Memory.dense_read s.src s.srcLen s.pos hs.src_dense).2 hp
    simp [hb] at this
  | refuse x => exact fetchByte_refuse h

/-- A refill buffers whole bytes and leaves the bit position where it was. -/
theorem refill_goes {n k : Nat} {s : State} (hs : s.Readable) (hk : n ≤ s.cnt + 8 * k) :
    (refill n k s).Goes fun _ t => CursorOnly s t ∧ t.Readable ∧ t.bitpos = s.bitpos ∧ n ≤ t.cnt := by
  induction k generalizing s with
  | zero => exact ⟨CursorOnly.refl s, hs, rfl, by omega⟩
  | succ k ih =>
    rw [refill_succ]
    split
    · refine (fetchByte_goes hs).bind fun b u ⟨hp, hu⟩ => ?_
      subst hu
      have hcnt := hs.cnt_le
      have hnext : State.Readable { s with
          pos := s.pos + 1, acc := s.acc ||| (b.setWidth 24 <<< s.cnt), cnt := s.cnt + 8 } :=
        ⟨by show s.cnt + 8 ≤ 8 * (s.pos + 1); omega, hp, hs.src_dense⟩
      refine (ih hnext (by show n ≤ s.cnt + 8 + 8 * k; omega)).mono fun _ t ⟨hframe, hread, hpos, hn⟩ => ?_
      refine ⟨CursorOnly.trans ⟨_, _, _, rfl⟩ hframe, hread, hpos.trans ?_, hn⟩
      show 8 * (s.pos + 1) - (s.cnt + 8) = 8 * s.pos - s.cnt
      omega
    · exact ⟨CursorOnly.refl s, hs, rfl, by omega⟩

theorem peekBits_goes {n : Nat} {s : State} (hs : s.Readable) (hn : n ≤ 16) :
    (peekBits n s).Goes fun _ t => CursorOnly s t ∧ t.Readable ∧ t.bitpos = s.bitpos ∧ n ≤ t.cnt := by
  rw [peekBits_eq n s hn]
  exact (refill_goes hs (by omega)).bind fun _ _ h => h

/-- READBITS of an admitted width reads exactly its bits. -/
theorem readBits_goes {n : Nat} {s : State} (hs : s.Readable) (hn : n ≤ 16) :
    (readBits n s).Goes fun _ t => Reads n s t :=
  (peekBits_goes hs hn).bind fun _ t ⟨hframe, hread, hpos, hcnt⟩ => by
    have hfetched := hread.cnt_le
    have hcnt_le : t.cnt - n ≤ 8 * t.pos := by omega
    refine ⟨(hframe.trans ⟨_, _, _, rfl⟩).walkOnly, ⟨hcnt_le, hread.pos_le, hread.src_dense⟩, ?_⟩
    show s.bitpos + n ≤ 8 * t.pos - (t.cnt - n)
    rw [← hpos, State.bitpos]
    omega

/-- The walk reads a bit or more for a symbol of its table. -/
theorem walkSym_goes {tb : CodeTable} {k : Nat} {s : State} (hs : s.Readable) :
    (walkSym tb k s).Goes fun x t => x < tb.length ∧ Reads 1 s t := by
  induction k generalizing s with
  | zero => rfl
  | succ k ih =>
    rw [walkSym_succ]
    refine (readBits_goes hs (by omega)).bind fun b u hu => ?_
    have hwalk : ∀ l v, Reads 1 s { u with wlen := l, wval := v } := fun l v =>
      ⟨hu.frame.trans ⟨_, _, _, _, _, rfl⟩, ⟨hu.readable.cnt_le, hu.readable.pos_le, hu.readable.src_dense⟩,
        hu.bitpos_le⟩
    split
    · next x hx => exact ⟨(List.findIdx?_eq_some_iff_getElem.1 hx).1, hwalk 0 0⟩
    · split
      · exact (ih (hwalk _ _).readable).mono fun x t ⟨hx, ht⟩ => ⟨hx, ((hwalk _ _).trans ht).mono (by omega)⟩
      · rfl

theorem decodeSym_goes {tb : CodeTable} {s : State} (hs : s.Readable) :
    (decodeSym tb s).Goes fun x t => x < tb.length ∧ Reads 1 s t :=
  (walkSym_goes (s := { s with wlen := 0, wval := 0 }) ⟨hs.cnt_le, hs.pos_le, hs.src_dense⟩).mono fun _ _ ⟨hx, ht⟩ =>
    ⟨hx, WalkOnly.trans ⟨_, _, _, _, _, rfl⟩ ht.frame, ht.readable, ht.bitpos_le⟩

/-! ## The element of a symbol and its meaning -/

theorem blkElement_not_length (f : BitVec 1) (t : BitVec 2) : (blkElement f t).isLength = false := by
  unfold blkElement
  split_ifs <;> rfl

theorem lit_not_length (b : BitVec 8) : (Instr.lit b).isLength = false := by
  have := b.isLt
  refine decide_eq_false fun h => ?_
  simp only [Config.lenSymLo] at h
  omega

/-- Every block header element latches the fields it was read from. -/
theorem exec_blkElement (f : BitVec 1) (t : BitVec 2) (s : State) : exec (blkElement f t) s = blockHeader f t s := by
  unfold blkElement
  split_ifs with h0 h1 h2
  · rw [h0]; rfl
  · rw [h1]; rfl
  · rfl
  · obtain rfl : t = 3 := by bv_omega
    rfl

/-- The meanings of a code-length symbol: a length, the repeat of the last one, or a run of zeros (42_dynamic_header.md R145 to
R148). -/
def MeansCodeLength (i : Instr) : Prop :=
  i.isLength = false ∧
    ((∃ v, ∀ s, exec i s = clLiteral v s) ∨ (∃ x, i = .cl16 x) ∨ (∃ x, i = .cl17 x) ∨ ∃ x, i = .cl18 x)

theorem clElement_meansCodeLength {n : Nat} (e : Nat) (hn : n < 19) : ∃ i, clElement n e = some i ∧ MeansCodeLength i := by
  by_cases h : n < 16
  · interval_cases n <;> exact ⟨_, rfl, rfl, .inl ⟨_, fun _ => rfl⟩⟩
  · obtain rfl | rfl | rfl : n = 16 ∨ n = 17 ∨ n = 18 := by omega
    · exact ⟨_, rfl, rfl, .inr (.inl ⟨_, rfl⟩)⟩
    · exact ⟨_, rfl, rfl, .inr (.inr (.inl ⟨_, rfl⟩))⟩
    · exact ⟨_, rfl, rfl, .inr (.inr (.inr ⟨_, rfl⟩))⟩

/-- The meanings of a symbol above EOB: the length half of a back-reference, or InvalidSymbol (43_block_symbols.md R163, R164). -/
def MeansLength (i : Instr) : Prop :=
  (i.isLength = true ∧ ∃ n x, ∀ s, exec i s = lengthHalf n x s) ∨
    (i.isLength = false ∧ ∃ n, ∀ s, exec i s = reservedLl n s)

theorem lengthElement_meansLength {k : Nat} (e : Nat) (hk : k < 31) : ∃ i, lengthElement k e = some i ∧ MeansLength i := by
  by_cases h : k < 29
  · interval_cases k <;> exact ⟨_, rfl, .inl ⟨rfl, _, _, fun _ => rfl⟩⟩
  · obtain rfl | rfl : k = 29 ∨ k = 30 := by omega
    all_goals exact ⟨_, rfl, .inr ⟨rfl, _, fun _ => rfl⟩⟩

theorem llElement_cases {n : Nat} (e : Nat) (hn : n < 288) :
    ∃ i, llElement n e = some i ∧ ((∃ b, i = .lit b) ∨ i = .eob ∨ MeansLength i) := by
  unfold llElement
  split
  · exact ⟨_, rfl, .inl ⟨_, rfl⟩⟩
  · next hlit =>
    split
    · exact ⟨_, rfl, .inr (.inl rfl)⟩
    · next heob =>
      have hlo : n - Config.lenSymLo < 31 := by simp only [Config.symEob, Config.lenSymLo] at *; omega
      obtain ⟨i, hi, hmeans⟩ := lengthElement_meansLength e hlo
      exact ⟨i, hi, .inr (.inr hmeans)⟩

/-- The meanings of a distance symbol: a distance of at least one byte, or InvalidSymbol (43_block_symbols.md R166, R167). -/
def MeansDistance (j : Instr) : Prop :=
  (∃ m x, 1 ≤ matchDistance m x ∧ ∀ s, exec j s = distanceHalf m x s) ∨ ∃ m, ∀ s, exec j s = reservedDist m s

theorem distElement_meansDistance {m : Nat} (e : Nat) (hm : m < 32) : ∃ j, distElement m e = some j ∧ MeansDistance j := by
  by_cases h : m < 30
  · have hbase : ∀ x, 1 ≤ matchDistance m x := fun x => by
      have : 1 ≤ distBase.getD m 0 := by interval_cases m <;> decide
      unfold matchDistance; omega
    interval_cases m <;> exact ⟨_, rfl, .inl ⟨_, _, hbase _, fun _ => rfl⟩⟩
  · obtain rfl | rfl : m = 30 ∨ m = 31 := by omega
    all_goals exact ⟨_, rfl, .inr ⟨_, fun _ => rfl⟩⟩

theorem clExtraWidth_le (n : Nat) : clExtraWidth n ≤ 16 := by
  unfold clExtraWidth
  split_ifs <;> omega

theorem getD_le_of_forall_mem {l : List Nat} {b : Nat} (h : ∀ x ∈ l, x ≤ b) (i : Nat) : l.getD i 0 ≤ b := by
  rw [List.getD_eq_getElem?_getD]
  cases hi : l[i]? with
  | none => exact Nat.zero_le b
  | some x => exact h x (List.mem_of_getElem? hi)

theorem llExtraWidth_le (n : Nat) : llExtraWidth n ≤ 16 := by
  unfold llExtraWidth
  split
  · exact getD_le_of_forall_mem (by decide) _
  · omega

theorem distExtraWidth_le (m : Nat) : distExtraWidth m ≤ 16 := getD_le_of_forall_mem (by decide) m

/-! ## Live states -/

/-- A session that goes on at a step boundary: the part of `State.Inv` that progress rests on. -/
structure State.Live (s : State) : Prop extends s.Readable where
  busy : s.status = .busy
  phase_busy : s.phase.status = .busy
  quiet : s.hostCmd = none
  out_dense : s.out.dense s.olen = true
  cl_lens : s.phase = .clLens → s.cli < s.ncl
  cl_syms : s.phase = .clSyms → s.idx < s.total

theorem State.Running.live {s : State} (h : s.Running) : s.Live := by
  have hcur := h.inv.cursor (by rw [h.busy]; decide)
  have hfetched := hcur.cnt_fetched
  exact {
    busy := h.busy
    phase_busy := h.inv.phase_status ▸ h.busy
    quiet := h.quiet
    cnt_le := by omega
    pos_le := hcur.pos_le
    src_dense := hcur.src_dense
    out_dense := h.inv.out_dense
    cl_lens := h.inv.cl_lens
    cl_syms := h.inv.cl_syms }

/-- An accepted START begins a live session. -/
theorem sessionStart_live {src : List Byte} {p : Nat} (cap : Option Nat) (s : State) (hp : p ≤ src.length) :
    (sessionStart src p cap s).Live where
  busy := rfl
  phase_busy := rfl
  quiet := rfl
  cnt_le := Nat.zero_le _
  pos_le := hp
  src_dense := Memory.ofBytes_dense src
  out_dense := rfl
  cl_lens := nofun
  cl_syms := nofun

/-- A read changes neither the phase nor what the phase promises. -/
theorem Reads.live {n : Nat} {s t : State} (h : Reads n s t) (hs : s.Live) : t.Live := by
  have hread := h.readable
  obtain ⟨_, _, _, _, _, rfl⟩ := h.frame
  exact ⟨hread, hs.busy, hs.phase_busy, hs.quiet, hs.out_dense, hs.cl_lens, hs.cl_syms⟩

theorem WalkOnly.phase_eq {s t : State} (h : WalkOnly s t) : t.phase = s.phase := by
  obtain ⟨_, _, _, _, _, rfl⟩ := h
  rfl

/-- The table builds still due in the block, the second summand of `State.stepsLeft`. -/
def Phase.buildsDue : Phase → Nat
  | .dynCounts => 2
  | .clLens => 2
  | .buildCl => 2
  | .clSyms => 1
  | .buildLd => 1
  | _ => 0

theorem State.stepsLeft_eq (s : State) : s.stepsLeft = 2 * s.unread.length + s.phase.buildsDue := by
  unfold State.stepsLeft
  cases s.phase <;> rfl

/-- What a step of a live session `s` leads to: the end of the session, or a live state with fewer steps left. -/
def State.Forward (s t : State) : Prop :=
  t.status = .done ∨ t.status = .fault ∨ (t.Live ∧ t.stepsLeft < s.stepsLeft)

theorem State.forward_of_fault {s t : State} (h : t.status = .fault) : s.Forward t := .inr (.inl h)

/-- A step to a live state goes forward where the builds due grow by less than two for each bit that was read. -/
theorem State.forward_of_live {s t : State} {n : Nat} (hunread : t.unread.length + n ≤ s.unread.length) (ht : t.Live)
    (hdue : t.phase.buildsDue < 2 * n + s.phase.buildsDue) : s.Forward t := by
  refine .inr (.inr ⟨ht, ?_⟩)
  rw [State.stepsLeft_eq, State.stepsLeft_eq]
  omega

/-- A step that reads an element, from what the fetch, the meaning and, after a length, the distance half can do. -/
theorem elementStep_goes {s : State} {P : Instr → State → Prop} {Q : State → Prop} (hfetch : (fetchElement s).Goes P)
    (hexec : ∀ i u, P i u →
      (i.isLength = false ∧ ∃ t, exec i u = .next t ∧ Q t) ∨
        (i.isLength = true ∧ ∃ v, exec i u = .next v ∧ ∃ t, distanceStep v = .next t ∧ Q t))
    (hfault : ∀ t, t.status = .fault → Q t) : ∃ t, elementStep s = .next t ∧ Q t := by
  refine hfetch.finish (fun i u hu => ?_) hfault
  obtain ⟨hl, t, ht, hQ⟩ | ⟨hl, v, hv, hnext⟩ := hexec i u hu
  · exact ⟨t, by simp [ht, hl], hQ⟩
  · simpa [hv, hl] using hnext

/-! ## The step of each phase -/

/-- BLK (44_stream_control.md R193): its three bits pay for the two builds of the block. -/
theorem blockHdr_forward {s : State} (hs : s.Live) (hp : s.phase = .blockHdr) :
    ∃ t, elementStep s = .next t ∧ s.Forward t := by
  have hfetch : (fetchElement s).Goes fun i u => (∃ f t, i = blkElement f t) ∧ Reads 3 s u := by
    simp only [fetchElement, hp, fetchBlk]
    exact (readBits_goes hs.toReadable (by omega)).bind fun f u hu =>
      (readBits_goes hu.readable (by omega)).bind fun t v hv => ⟨⟨_, _, rfl⟩, hu.trans hv⟩
  refine elementStep_goes hfetch ?_ fun _ => State.forward_of_fault
  rintro i u ⟨⟨f, b, rfl⟩, hu⟩
  have hlive := hu.live hs
  refine .inl ⟨blkElement_not_length f b, ?_⟩
  simp only [exec_blkElement, blockHeader]
  split
  · refine ⟨_, rfl, State.forward_of_live hu.unread_length_le
      { hlive with phase_busy := rfl, cl_lens := nofun, cl_syms := nofun } ?_⟩
    simp [Phase.buildsDue, hp]
  · exact ⟨_, rfl, State.forward_of_fault rfl⟩

/-- HDR (42_dynamic_header.md R141). -/
theorem dynCounts_forward {s : State} (hs : s.Live) (hp : s.phase = .dynCounts) :
    ∃ t, elementStep s = .next t ∧ s.Forward t := by
  have hfetch : (fetchElement s).Goes fun i u => (∃ l d c, i = .hdr l d c) ∧ Reads 14 s u := by
    simp only [fetchElement, hp, fetchHdr]
    exact (readBits_goes hs.toReadable (by omega)).bind fun l u hu =>
      (readBits_goes hu.readable (by omega)).bind fun d v hv =>
        (readBits_goes hv.readable (by omega)).bind fun c w hw => ⟨⟨_, _, _, rfl⟩, (hu.trans hv).trans hw⟩
  refine elementStep_goes hfetch ?_ fun _ => State.forward_of_fault
  rintro i u ⟨⟨l, d, c, rfl⟩, hu⟩
  have hlive := hu.live hs
  refine .inl ⟨rfl, _, rfl, State.forward_of_live hu.unread_length_le
    { hlive with phase_busy := rfl, cl_lens := fun _ => Nat.succ_pos _, cl_syms := nofun } ?_⟩
  simp [Phase.buildsDue, hp]

/-- CLLEN below the 19 entries of CL_ORDER (42_dynamic_header.md R142). -/
theorem execCllen_eq (v : BitVec 3) {s : State} (h : s.cli < clOrder.length) :
    execCllen v s = .next { s with
      clLen := s.clLen.setIfInBounds clOrder[s.cli] v
      cli := s.cli + 1
      phase := if s.cli + 1 = s.ncl then .buildCl else s.phase } := by
  simp only [execCllen, List.getElem?_eq_getElem h]

/-- CLLEN in its phase (42_dynamic_header.md R142): `cli` below `ncl` is an index of CL_ORDER. -/
theorem clLens_forward {s : State} (hs : s.Live) (hp : s.phase = .clLens) :
    ∃ t, elementStep s = .next t ∧ s.Forward t := by
  have hfetch : (fetchElement s).Goes fun i u => (∃ v, i = .cllen v) ∧ Reads 3 s u := by
    simp only [fetchElement, hp, fetchCllen]
    exact (readBits_goes hs.toReadable (by omega)).bind fun v u hu => ⟨⟨_, rfl⟩, hu⟩
  refine elementStep_goes hfetch ?_ fun _ => State.forward_of_fault
  rintro i u ⟨⟨v, rfl⟩, hu⟩
  have hlive := hu.live hs
  have hphase : u.phase = .clLens := hu.frame.phase_eq.trans hp
  have hcli := hlive.cl_lens hphase
  have hslot : u.cli < clOrder.length := lt_of_lt_of_le hcli u.ncl_le
  refine .inl ⟨rfl, _, execCllen_eq v hslot, ?_⟩
  by_cases hlast : u.cli + 1 = u.ncl
  · refine State.forward_of_live hu.unread_length_le
      { hlive with phase_busy := ?_, cl_lens := ?_, cl_syms := ?_ } ?_ <;> simp [hlast, Phase.buildsDue, hp, Phase.status]
  · have hnext : u.cli + 1 < u.ncl := by omega
    refine State.forward_of_live hu.unread_length_le
      { hlive with phase_busy := ?_, cl_lens := fun _ => hnext, cl_syms := ?_ } ?_
    · simp [hlast, hphase, Phase.status]
    · simp [hlast, hphase]
    · simp [hlast, hphase, hp, Phase.buildsDue]

/-- BUILD succeeds, writing its running register alone, or raises. -/
theorem build_goes (lens : List Nat) (s : State) : (build lens s).Goes fun _ t => ∃ c, t = { s with code := c } := by
  cases h : build lens s with
  | ok codes t => obtain ⟨c, -, ht⟩ := build_ok h; exact ⟨c, ht⟩
  | raised t => obtain ⟨c, rfl⟩ := build_raised h; rfl
  | stop x => obtain ⟨_, _, h'⟩ | ⟨_, h'⟩ := build_total lens s <;> cases h.symm.trans h'
  | refuse x => obtain ⟨_, _, h'⟩ | ⟨_, h'⟩ := build_total lens s <;> cases h.symm.trans h'

/-- BUILD_CL (42_dynamic_header.md R143) makes the first of the two builds due. -/
theorem buildCl_forward {s : State} (hs : s.Live) (hp : s.phase = .buildCl) :
    ∃ t, buildCl s = .next t ∧ s.Forward t := by
  refine (build_goes s.clLens s).finish ?_ fun _ => State.forward_of_fault
  rintro codes u ⟨c, rfl⟩
  have htotal : 0 < s.total := by simp only [State.total, State.nlit]; omega
  refine ⟨_, rfl, State.forward_of_live (n := 0) le_rfl
    { hs with phase_busy := rfl, cl_lens := nofun, cl_syms := fun _ => htotal } ?_⟩
  simp [Phase.buildsDue, hp]

/-- BUILD_LD (42_dynamic_header.md R150) makes the last build due. -/
theorem buildLd_forward {s : State} (hs : s.Live) (hp : s.phase = .buildLd) :
    ∃ t, buildLd s = .next t ∧ s.Forward t := by
  refine (build_goes s.llLens s).finish ?_ fun _ => State.forward_of_fault
  rintro ll u ⟨c, rfl⟩
  refine (build_goes _ _).finish ?_ fun _ => State.forward_of_fault
  rintro d v ⟨c', rfl⟩
  refine ⟨_, rfl, State.forward_of_live (n := 0) le_rfl
    { hs with phase_busy := rfl, cl_lens := nofun, cl_syms := nofun } ?_⟩
  simp [Phase.buildsDue, hp]

section CodeLengthSymbol

variable {s u : State} (hu : Reads 1 s u) (hlive : u.Live) (hp : s.phase = .clSyms)
include hu hlive hp

/-- The end of the CLSYM frame, with at most `total` lengths written. -/
theorem clSymEnd_forward (sym extra rep idx : Nat) (lens : Vector (BitVec 4) 320) (hidx : idx ≤ u.total) :
    s.Forward (clSymEnd { u with sym := sym, extra := extra, rep := rep, idx := idx, lens := lens }) := by
  have hphase : u.phase = .clSyms := hu.frame.phase_eq.trans hp
  unfold clSymEnd
  split
  · refine State.forward_of_live hu.unread_length_le
      { hlive with phase_busy := rfl, cl_lens := nofun, cl_syms := nofun } ?_
    simp [Phase.buildsDue, hp]
  · next hfull =>
    refine State.forward_of_live hu.unread_length_le { hlive with cl_syms := fun _ => lt_of_le_of_ne hidx hfull } ?_
    simp [Phase.buildsDue, hp, hphase]

theorem clLiteral_forward (v : BitVec 4) : ∃ t, clLiteral v u = .next t ∧ s.Forward t := by
  have hidx := hlive.cl_syms (hu.frame.phase_eq.trans hp)
  rw [clLiteral, if_pos (lt_of_lt_of_le hidx u.total_le)]
  exact ⟨_, rfl, clSymEnd_forward hu hlive hp _ _ _ _ _ hidx⟩

theorem clRun_forward (rep : Nat) (v : BitVec 4) (sym extra : Nat) :
    ∃ t, clRun rep v { u with sym := sym, extra := extra } = .next t ∧ s.Forward t := by
  simp only [clRun]
  split
  · exact ⟨_, rfl, State.forward_of_fault rfl⟩
  · next hfits => exact ⟨_, rfl, clSymEnd_forward hu hlive hp _ _ _ _ _ (Nat.le_of_not_lt hfits)⟩

end CodeLengthSymbol

/-- CL0 to CL18 (42_dynamic_header.md R144 to R148): `idx` below `total` is an index of the combined array. -/
theorem clSyms_forward {s : State} (hs : s.Live) (hp : s.phase = .clSyms) :
    ∃ t, elementStep s = .next t ∧ s.Forward t := by
  have hfetch : (fetchElement s).Goes fun i u => MeansCodeLength i ∧ Reads 1 s u := by
    simp only [fetchElement, hp, fetchCl]
    refine (decodeSym_goes hs.toReadable).bind fun n u ⟨hn, hu⟩ => ?_
    rw [State.clTable_length] at hn
    split
    · exact Res.goes_raise _ _ _
    · refine (readBits_goes hu.readable (clExtraWidth_le n)).bind fun e v hv => ?_
      obtain ⟨i, hi, hmeans⟩ := clElement_meansCodeLength e hn
      rw [hi]
      exact ⟨hmeans, (hu.trans hv).mono (by omega)⟩
  refine elementStep_goes hfetch ?_ fun _ => State.forward_of_fault
  rintro i u ⟨⟨hlen, hmeans⟩, hu⟩
  have hlive := hu.live hs
  refine .inl ⟨hlen, ?_⟩
  obtain ⟨v, hv⟩ | ⟨x, rfl⟩ | ⟨x, rfl⟩ | ⟨x, rfl⟩ := hmeans
  · rw [hv]
    exact clLiteral_forward hu hlive hp v
  · simp only [exec, execCl16]
    split
    · exact ⟨_, rfl, State.forward_of_fault rfl⟩
    · exact clRun_forward hu hlive hp _ _ _ _
  · exact clRun_forward hu hlive hp _ _ _ _
  · exact clRun_forward hu hlive hp _ _ _ _

/-! ## The symbols of a block -/

/-- A copy whose next source byte stands below `olen` finds every byte, and keeps OUT dense (43_block_symbols.md R171). -/
theorem copyLoop_finds_bytes {base n k : Nat} {s : State} (hout : s.out.dense s.olen = true) (hbase : base + k < s.olen) :
    ∃ offset out olen, copyLoop base n k s = .ok () { s with offset := offset, out := out, olen := olen } ∧
      out.dense olen = true := by
  induction n generalizing k s with
  | zero => exact ⟨_, _, _, rfl, hout⟩
  | succ n ih =>
    obtain ⟨b, hb⟩ := Option.isSome_iff_exists.1 ((Memory.dense_read s.out s.olen (base + k) hout).2 hbase)
    rw [copyLoop_succ, hb]
    exact ih (Memory.dense_append s.out s.olen b hout) (by simp only [State.append_olen]; omega)

section BlockSymbol

variable {s u : State} (hu : u.unread.length + 1 ≤ s.unread.length) (hlive : u.Live) (hp : u.phase = .symbols)
include hu hlive hp

/-- A meaning in SYMBOLS that appends to OUT and stays in the phase. -/
theorem output_forward (sym extra length dsym distance offset olen : Nat) (out : Memory) (hout : out.dense olen = true) :
    s.Forward { u with
      sym := sym, extra := extra, length := length, dsym := dsym, distance := distance, offset := offset, out := out
      olen := olen } := by
  refine State.forward_of_live hu { hlive with out_dense := hout } ?_
  simp [Phase.buildsDue, hp]

/-- A distance of at least one byte (43_block_symbols.md R170, R173): a failure, or a copy from bytes that are there. -/
theorem distanceHalf_forward {m x : Nat} (hd : 1 ≤ matchDistance m x) :
    ∃ t, distanceHalf m x u = .next t ∧ s.Forward t := by
  simp only [distanceHalf]
  split
  · exact ⟨_, rfl, State.forward_of_fault rfl⟩
  · next hle =>
    split
    · exact ⟨_, rfl, State.forward_of_fault rfl⟩
    · have hd' : matchDistance m x ≤ u.olen := Nat.le_of_not_lt hle
      obtain ⟨offset, out, olen, hcopy, hout⟩ := copyLoop_finds_bytes (base := u.olen - matchDistance m x) (n := u.length)
        (k := 0) (s := { u with dsym := m, extra := x, distance := matchDistance m x }) hlive.out_dense
        (by show u.olen - matchDistance m x + 0 < u.olen; omega)
      rw [copy, hcopy]
      exact ⟨_, rfl, output_forward hu hlive hp _ _ _ _ _ _ _ _ hout⟩

/-- The distance element of a back-reference, in the step that read its length element. -/
theorem distanceStep_forward : ∃ t, distanceStep u = .next t ∧ s.Forward t := by
  have hfetch : (fetchDist u).Goes fun j v => MeansDistance j ∧ Reads 1 u v := by
    refine (decodeSym_goes hlive.toReadable).bind fun m v ⟨hm, hv⟩ => ?_
    replace hm : m < 32 := lt_of_lt_of_le hm (by simpa using u.ndist_le)
    refine (readBits_goes hv.readable (distExtraWidth_le m)).bind fun e w hw => ?_
    obtain ⟨j, hj, hmeans⟩ := distElement_meansDistance e hm
    rw [hj]
    exact ⟨hmeans, (hv.trans hw).mono (by omega)⟩
  refine hfetch.finish ?_ fun _ => State.forward_of_fault
  rintro j v ⟨⟨m, x, hd, hx⟩ | ⟨m, hx⟩, hv⟩
  · rw [hx]
    have := hv.unread_length_le
    exact distanceHalf_forward (by omega) (hv.live hlive) (hv.frame.phase_eq.trans hp) hd
  · exact ⟨_, hx v, State.forward_of_fault rfl⟩

end BlockSymbol

/-- LIT, EOB, the back-references and the reserved symbols (43_block_symbols.md R160 to R164). -/
theorem symbols_forward {s : State} (hs : s.Live) (hp : s.phase = .symbols) :
    ∃ t, elementStep s = .next t ∧ s.Forward t := by
  have hfetch : (fetchElement s).Goes fun i u =>
      ((∃ b, i = .lit b) ∨ i = .eob ∨ MeansLength i) ∧ Reads 1 s u := by
    simp only [fetchElement, hp, fetchLl]
    refine (decodeSym_goes hs.toReadable).bind fun n u ⟨hn, hu⟩ => ?_
    replace hn : n < 288 := lt_of_lt_of_le hn (by simpa using s.nlit_le)
    refine (readBits_goes hu.readable (llExtraWidth_le n)).bind fun e v hv => ?_
    obtain ⟨i, hi, hcases⟩ := llElement_cases e hn
    rw [hi]
    exact ⟨hcases, (hu.trans hv).mono (by omega)⟩
  refine elementStep_goes hfetch ?_ fun _ => State.forward_of_fault
  rintro i u ⟨hcases, hu⟩
  have hlive := hu.live hs
  have hphase : u.phase = .symbols := hu.frame.phase_eq.trans hp
  obtain ⟨b, rfl⟩ | rfl | ⟨hlen, n, x, hx⟩ | ⟨hlen, n, hx⟩ := hcases
  case inl =>
    refine .inl ⟨lit_not_length b, ?_⟩
    simp only [exec, execLit]
    split
    · exact ⟨_, rfl, State.forward_of_fault rfl⟩
    · exact ⟨_, rfl, output_forward hu.unread_length_le hlive hphase _ _ _ _ _ _ _ _
        (Memory.dense_append _ _ b hlive.out_dense)⟩
  case inr.inl =>
    refine .inl ⟨rfl, ?_⟩
    simp only [exec, execEob]
    split
    · exact ⟨_, rfl, .inl rfl⟩
    · refine ⟨_, rfl, State.forward_of_live hu.unread_length_le
        { hlive with phase_busy := rfl, cl_lens := nofun, cl_syms := nofun } ?_⟩
      simp [Phase.buildsDue]
  case inr.inr.inl =>
    exact .inr ⟨hlen, _, hx u, distanceStep_forward (u := { u with sym := n, extra := x, length := matchLength n x })
      hu.unread_length_le { hlive with } hphase⟩
  case inr.inr.inr => exact .inl ⟨hlen, _, hx u, State.forward_of_fault rfl⟩

/-! ## A live session -/

/-- Every live session has a next state, and goes forward. -/
theorem live_step {s : State} (hs : s.Live) : ∃ t, step s = .next t ∧ s.Forward t := by
  have hbusy := hs.phase_busy
  simp only [step, machineStep, hs.quiet, sequencerStep, hs.busy, if_true]
  cases hp : s.phase with
  | blockHdr => exact blockHdr_forward hs hp
  | dynCounts => exact dynCounts_forward hs hp
  | clLens => exact clLens_forward hs hp
  | buildCl => exact buildCl_forward hs hp
  | clSyms => exact clSyms_forward hs hp
  | buildLd => exact buildLd_forward hs hp
  | symbols => exact symbols_forward hs hp
  | idle => simp [hp, Phase.status] at hbusy
  | done => simp [hp, Phase.status] at hbusy
  | fault => simp [hp, Phase.status] at hbusy

/-- A run whose first step answers goes on from the answer. -/
theorem run_succ_of_step {s t : State} (h : step s = .next t) (k : Nat) : core.run (k + 1) s = core.run k t := by
  have hcore : core.step s = .next t := h
  simp only [Host.Core.run, hcore]

/-- A live session ends within one step more than its bound on the steps left. -/
theorem live_session_ends {s : State} (hs : s.Live) :
    ∃ k t, k ≤ s.stepsLeft + 1 ∧ core.run k s = .next t ∧ (t.status = .done ∨ t.status = .fault) := by
  induction hn : s.stepsLeft using Nat.strong_induction_on generalizing s with
  | _ n ih =>
    obtain ⟨t, hstep, hdone | hfault | ⟨hlive, hless⟩⟩ := live_step hs
    · exact ⟨1, t, by omega, run_succ_of_step hstep 0, .inl hdone⟩
    · exact ⟨1, t, by omega, run_succ_of_step hstep 0, .inr hfault⟩
    · obtain ⟨k, u, hk, hrun, hend⟩ := ih t.stepsLeft (hn ▸ hless) hlive rfl
      exact ⟨k + 1, u, by omega, (run_succ_of_step hstep k).trans hrun, hend⟩

/-! ## The statements -/

/-- Settles O51: a running session is live, and a live session has a next state. -/
theorem runningSessionNeverStops : Obligations.RunningSessionNeverStops := by
  intro s hs
  obtain ⟨t, ht, -⟩ := live_step hs.live
  exact ⟨t, ht⟩

/-- Settles O53: of the ways a live session goes forward, only the one that lowers the bound stays BUSY. -/
theorem stepsLeftFalls : Obligations.StepsLeftFalls := by
  intro s t hs hstep hbusy
  obtain ⟨t', hstep', hforward⟩ := live_step hs.live
  obtain rfl : t' = t := by simpa [hstep] using hstep'.symm
  obtain hdone | hfault | ⟨-, hless⟩ := hforward
  · simp [hbusy] at hdone
  · simp [hbusy] at hfault
  · exact hless

/-- Settles O54: the accepted START begins a live session with two steps left for each bit from `start_pos` on. -/
theorem everySessionEnds : Obligations.EverySessionEnds := by
  intro s src p cap hidle hp
  have hstart : step (s.askStart src p cap) = .next (sessionStart src p cap (s.askStart src p cap)) := by
    simp [step, machineStep, State.askStart, takeHostCmd, hostStart, hidle, Nat.not_lt.2 hp]
  obtain ⟨k, t, hk, hrun, hend⟩ := live_session_ends (sessionStart_live cap (s.askStart src p cap) hp)
  refine ⟨k, t, ?_, (run_succ_of_step hstart k).trans hrun, hend⟩
  rw [State.stepsLeft_eq, State.unread_length] at hk
  simp only [sessionStart_srcLen, State.bitpos, sessionStart_pos, sessionStart_cnt, sessionStart_phase,
    Phase.buildsDue] at hk
  omega

end Sys2Proof.Machine

namespace Sys2Proof.Machine

/-! # What every step keeps (10_state.md)

Three things are said once and every statement of the family is derived from them: `Scan`, the states a read can pass through;
`Meaning`, the operations the elements mean; and `elementStep_induct`, the induction over a step that reads an element. -/

/-! ## The states a read passes through -/

/-- `t` is a state that reads from `s` on can pass through: each move fetches one byte (40_bitreader.md R101, R103), consumes
buffered bits (R101), or writes the walk (41_huffman_builder.md R130). -/
inductive Scan (s : State) : State → Prop
  | refl : Scan s s
  | fetch {t : State} {b : Byte} (h : Scan s t) (hcnt : t.cnt < 16) (hpos : t.pos < t.srcLen)
      (hb : t.src.read t.pos = some b) :
      Scan s { t with pos := t.pos + 1, acc := t.acc ||| (b.setWidth 24 <<< t.cnt), cnt := t.cnt + 8 }
  | consume {t : State} (n : Nat) (h : Scan s t) (hn : n ≤ t.cnt) : Scan s { t with acc := t.acc >>> n, cnt := t.cnt - n }
  | walk {t : State} (l v : Nat) (h : Scan s t) (hl : l ≤ 15) (hv : v < 2 ^ l) : Scan s { t with wlen := l, wval := v }

theorem Scan.walkOnly {s t : State} (h : Scan s t) : WalkOnly s t := by
  induction h with
  | refl => exact WalkOnly.refl s
  | fetch h hcnt hpos hb ih => exact ih.trans ⟨_, _, _, _, _, rfl⟩
  | consume n h hn ih => exact ih.trans ⟨_, _, _, _, _, rfl⟩
  | walk l v h hl hv ih => exact ih.trans ⟨_, _, _, _, _, rfl⟩

/-- Reads from `s` on can pass through every state the micro-operation leaves: the one it answers, which meets `P` with its value,
and the one it raises in. Nothing is claimed where the model stops. -/
def Res.Scans {α : Type} (s : State) (r : Res α) (P : α → State → Prop) : Prop :=
  match r with
  | .ok v t => Scan s t ∧ P v t
  | .raised t => ∃ u f, Scan s u ∧ t = u.raise f
  | .stop _ => True
  | .refuse _ => True

theorem Res.Scans.mono {α : Type} {s : State} {r : Res α} {P Q : α → State → Prop} (h : r.Scans s P)
    (hPQ : ∀ v t, P v t → Q v t) : r.Scans s Q := by
  cases r with
  | ok v t => exact ⟨h.1, hPQ v t h.2⟩
  | raised t => exact h
  | stop x => trivial
  | refuse x => trivial

theorem Res.Scans.bind {α β : Type} {s : State} {r : Res α} {f : α → State → Res β} {P : α → State → Prop}
    {Q : β → State → Prop} (h : r.Scans s P) (hf : ∀ v t, Scan s t → P v t → (f v t).Scans s Q) :
    (r.bind f).Scans s Q := by
  cases r with
  | ok v t => exact hf v t h.1 h.2
  | raised t => exact h
  | stop x => trivial
  | refuse x => trivial

theorem Res.Scans.of_ok {α : Type} {s t : State} {r : Res α} {v : α} {P : α → State → Prop} (h : r.Scans s P)
    (hr : r = .ok v t) : Scan s t ∧ P v t := by
  subst hr
  exact h

theorem Res.Scans.of_raised {α : Type} {s t : State} {r : Res α} {P : α → State → Prop} (h : r.Scans s P)
    (hr : r = .raised t) : ∃ u f, Scan s u ∧ t = u.raise f := by
  subst hr
  exact h

/-- A refill ends with enough bits, and with no whole byte more than it needs. -/
theorem refill_scans {n k : Nat} {s t : State} (hst : Scan s t) (hn : n ≤ 16) :
    (refill n k t).Scans s fun _ u =>
      CursorOnly t u ∧ (n ≤ t.cnt + 8 * k → n ≤ u.cnt) ∧ u.cnt ≤ max t.cnt (n + 7) := by
  induction k generalizing t with
  | zero => exact ⟨hst, CursorOnly.refl t, by omega, by omega⟩
  | succ k ih =>
    rw [refill_succ]
    split
    · next hlt =>
      cases hf : fetchByte t with
      | ok b u =>
        obtain ⟨hpos, hb, rfl⟩ := fetchByte_ok hf
        refine (ih (hst.fetch (by omega) hpos hb)).mono fun _ u ⟨hframe, hmin, hmax⟩ => ?_
        simp only at hmin hmax
        exact ⟨CursorOnly.trans ⟨_, _, _, rfl⟩ hframe, fun hk => hmin (by omega), by omega⟩
      | raised u => exact ⟨t, _, hst, (fetchByte_raised hf).2⟩
      | stop x => trivial
      | refuse x => trivial
    · exact ⟨hst, CursorOnly.refl t, by omega, by omega⟩

theorem readBits_scans {n : Nat} {s t : State} (hst : Scan s t) :
    (readBits n t).Scans s fun v u => v < 2 ^ n ∧ CursorOnly t u ∧ (t.cnt ≤ 7 → u.cnt ≤ 7) := by
  by_cases hn : n ≤ 16
  · rw [readBits, peekBits_eq n t hn]
    refine Res.Scans.bind (P := fun v u => v < 2 ^ n ∧ CursorOnly t u ∧ n ≤ u.cnt ∧ u.cnt ≤ max t.cnt (n + 7)) ?_ ?_
    · exact (refill_scans hst hn).bind fun _ u hu ⟨hframe, hmin, hmax⟩ =>
        ⟨hu, Nat.mod_lt _ (Nat.two_pow_pos n), hframe, hmin (by omega), hmax⟩
    · intro v u hu ⟨hv, hframe, hmin, hmax⟩
      exact ⟨hu.consume n hmin, hv, hframe.trans ⟨_, _, _, rfl⟩, fun h7 => by simp only; omega⟩
  · have hwide : Config.readMax < n := by simp only [Config.readMax]; omega
    simp [readBits, peekBits, hwide, Res.bind, Res.Scans]

/-- What holds of the BitCursor and the walk between two elements (10_state.md R23(b), R39(b)). -/
structure State.AtRest (s : State) : Prop where
  cnt_le : s.cnt ≤ 7
  wlen_zero : s.wlen = 0
  wval_zero : s.wval = 0

theorem CursorOnly.atRest {t u : State} (h : CursorOnly t u) (hcnt : t.cnt ≤ 7 → u.cnt ≤ 7) (ht : t.AtRest) :
    u.AtRest := by
  obtain ⟨_, _, _, rfl⟩ := h
  exact ⟨hcnt ht.cnt_le, ht.wlen_zero, ht.wval_zero⟩

/-- A field that is read at rest leaves the BitCursor at rest. -/
theorem readBits_scans_atRest {n : Nat} {s t : State} (hst : Scan s t) :
    (readBits n t).Scans s fun _ u => t.AtRest → u.AtRest :=
  (readBits_scans hst).mono fun _ _ ⟨_, hframe, hcnt⟩ => hframe.atRest hcnt

/-- The walk stays within its 15 turns. -/
theorem walkSym_scans {tb : CodeTable} {k : Nat} {s t : State} (hst : Scan s t) (hlen : t.wlen + k ≤ 15)
    (hval : t.wval < 2 ^ t.wlen) : (walkSym tb k t).Scans s fun _ u => t.cnt ≤ 7 → u.AtRest := by
  induction k generalizing t with
  | zero => exact ⟨t, _, hst, rfl⟩
  | succ k ih =>
    rw [walkSym_succ]
    refine (readBits_scans hst).bind fun b u hu ⟨hb, hframe, hcnt⟩ => ?_
    obtain ⟨acc, cnt, pos, rfl⟩ := hframe
    have hbit : t.wval <<< 1 ||| b < 2 ^ (t.wlen + 1) := by
      refine Nat.or_lt_two_pow ?_ (lt_of_lt_of_le hb (Nat.pow_le_pow_right (by omega) (by omega)))
      rw [Nat.shiftLeft_eq, Nat.pow_succ]
      omega
    have hnext := hu.walk (t.wlen + 1) (t.wval <<< 1 ||| b) (by omega) hbit
    split
    · exact ⟨hu.walk 0 0 (by omega) (by omega), fun h7 => ⟨hcnt h7, rfl, rfl⟩⟩
    · split
      · exact (ih hnext (by simp only; omega) hbit).mono fun _ v hv h7 => hv (hcnt h7)
      · exact ⟨_, _, hnext, rfl⟩

theorem decodeSym_scans {tb : CodeTable} {s t : State} (hst : Scan s t) :
    (decodeSym tb t).Scans s fun _ u => t.cnt ≤ 7 → u.AtRest :=
  walkSym_scans (hst.walk 0 0 (by omega) (by omega)) le_rfl (by simp)

/-! ## The element that is read -/

theorem blkElement_phase (f : BitVec 1) (t : BitVec 2) : (blkElement f t).phase = .blockHdr := by
  unfold blkElement
  split_ifs <;> rfl

theorem clElement_phase {n e : Nat} {i : Instr} (h : clElement n e = some i) : i.phase = .clSyms := by
  unfold clElement at h
  split at h <;> cases h <;> rfl

theorem lengthElement_phase {n e : Nat} {i : Instr} (h : lengthElement n e = some i) : i.phase = .symbols := by
  unfold lengthElement at h
  split at h <;> cases h <;> rfl

theorem llElement_phase {n e : Nat} {i : Instr} (h : llElement n e = some i) : i.phase = .symbols := by
  unfold llElement at h
  split at h
  · cases h; rfl
  · split at h
    · cases h; rfl
    · exact lengthElement_phase h

theorem distElement_phase {n e : Nat} {i : Instr} (h : distElement n e = some i) : i.phase = .symbols := by
  unfold distElement at h
  split at h <;> cases h <;> rfl

theorem answer_scans {o : Option Instr} {s t : State} {P : Instr → State → Prop} (hst : Scan s t)
    (h : ∀ i, o = some i → P i t) : (answer o t).Scans s P := by
  cases o with
  | none => trivial
  | some i => exact ⟨hst, h i rfl⟩

/-- The element that is read is one of the phase, and is read from rest to rest. -/
theorem fetchElement_scans (s : State) :
    (fetchElement s).Scans s fun i u => i.phase = s.phase ∧ (s.AtRest → u.AtRest) := by
  unfold fetchElement
  split
  · exact (readBits_scans_atRest .refl).bind fun f t ht h1 =>
      (readBits_scans_atRest ht).bind fun b u hu h2 => ⟨hu, by simp [*, blkElement_phase], h2 ∘ h1⟩
  · exact (readBits_scans_atRest .refl).bind fun l t ht h1 =>
      (readBits_scans_atRest ht).bind fun d u hu h2 =>
        (readBits_scans_atRest hu).bind fun c v hv h3 => ⟨hv, by simp [*]; rfl, h3 ∘ h2 ∘ h1⟩
  · exact (readBits_scans_atRest .refl).bind fun l t ht h1 => ⟨ht, by simp [*]; rfl, h1⟩
  · next hp =>
    refine (decodeSym_scans .refl).bind fun n t ht h1 => ?_
    split
    · exact ⟨t, _, ht, rfl⟩
    · exact (readBits_scans_atRest ht).bind fun e u hu h2 =>
        answer_scans hu fun i hi => ⟨(clElement_phase hi).trans hp.symm, fun hs => h2 (h1 hs.cnt_le)⟩
  · next hp =>
    exact (decodeSym_scans .refl).bind fun n t ht h1 => (readBits_scans_atRest ht).bind fun e u hu h2 =>
      answer_scans hu fun i hi => ⟨(llElement_phase hi).trans hp.symm, fun hs => h2 (h1 hs.cnt_le)⟩
  all_goals trivial

theorem fetchDist_scans (s : State) :
    (fetchDist s).Scans s fun j u => j.phase = .symbols ∧ (s.AtRest → u.AtRest) :=
  (decodeSym_scans .refl).bind fun _ _ ht h1 => (readBits_scans_atRest ht).bind fun _ _ hu h2 =>
    answer_scans hu fun _ hi => ⟨distElement_phase hi, fun hs => h2 (h1 hs.cnt_le)⟩

/-! ## The meaning of an element -/

/-- The meanings that the stream elements share, with the ranges of their operands and the phase the element is read in
(30_encoding.md R71 to R79). -/
inductive Meaning (i : Instr) : Prop
  | blockHeader (f : BitVec 1) (b : BitVec 2) (hp : i.phase = .blockHdr) (h : ∀ s, exec i s = blockHeader f b s)
  | counts (l d : BitVec 5) (c : BitVec 4) (hp : i.phase = .dynCounts) (h : ∀ s, exec i s = execHdr l d c s)
  | clLength (v : BitVec 3) (hp : i.phase = .clLens) (h : ∀ s, exec i s = execCllen v s)
  | codeLength (v : BitVec 4) (hp : i.phase = .clSyms) (h : ∀ s, exec i s = clLiteral v s)
  | repeatLength (x : BitVec 2) (hp : i.phase = .clSyms) (h : ∀ s, exec i s = execCl16 x s)
  | zeroRun (sym x rep : Nat) (hp : i.phase = .clSyms)
      (h : ∀ s, exec i s = clRun rep 0 { s with sym := sym, extra := x })
      (hsym : sym ≤ 18) (hx : x ≤ 127) (hrep : rep ≤ 138)
  | literal (b : BitVec 8) (hp : i.phase = .symbols) (h : ∀ s, exec i s = execLit b s)
  | endOfBlock (hi : i = .eob)
  | length (n x : Nat) (hp : i.phase = .symbols) (h : ∀ s, exec i s = lengthHalf n x s)
      (hn : n ≤ 285) (hx : x < 2 ^ llExtraWidth n)
  | reservedLl (n : Nat) (hp : i.phase = .symbols) (h : ∀ s, exec i s = reservedLl n s) (hn : n ≤ 287)
  | distance (m x : Nat) (hp : i.phase = .symbols) (h : ∀ s, exec i s = distanceHalf m x s)
      (hm : m ≤ 29) (hx : x < 2 ^ distExtraWidth m)
  | reservedDist (m : Nat) (hp : i.phase = .symbols) (h : ∀ s, exec i s = reservedDist m s) (hm : m ≤ 31)

theorem exec_meaning (i : Instr) : Meaning i := by
  cases i
  case blk f b => exact .blockHeader f b rfl fun _ => rfl
  case blkBtype0 f => exact .blockHeader f 0 rfl fun _ => rfl
  case blkBtype1 f => exact .blockHeader f 1 rfl fun _ => rfl
  case blkBtype3 f => exact .blockHeader f 3 rfl fun _ => rfl
  case hdr l d c => exact .counts l d c rfl fun _ => rfl
  case cllen v => exact .clLength v rfl fun _ => rfl
  case cl16 x => exact .repeatLength x rfl fun _ => rfl
  case cl17 x =>
    have := x.isLt
    exact .zeroRun _ _ _ rfl (fun _ => rfl) (by omega) (by omega) (by unfold shortRun; omega)
  case cl18 x =>
    have := x.isLt
    exact .zeroRun _ _ _ rfl (fun _ => rfl) (by omega) (by omega) (by unfold longRun; omega)
  case lit b => exact .literal b rfl fun _ => rfl
  case eob => exact .endOfBlock rfl
  case ll286 | ll287 => exact .reservedLl _ rfl (fun _ => rfl) (by omega)
  case d30 | d31 => exact .reservedDist _ rfl (fun _ => rfl) (by omega)
  case len257 | len258 | len259 | len260 | len261 | len262 | len263 | len264 | len285 =>
    exact .length _ _ rfl (fun _ => rfl) (by omega) (by decide)
  case len265 x | len266 x | len267 x | len268 x | len269 x | len270 x | len271 x | len272 x | len273 x | len274 x |
      len275 x | len276 x | len277 x | len278 x | len279 x | len280 x | len281 x | len282 x | len283 x | len284 x =>
    exact .length _ _ rfl (fun _ => rfl) (by omega) x.isLt
  case dist0 | dist1 | dist2 | dist3 => exact .distance _ _ rfl (fun _ => rfl) (by omega) (by decide)
  case dist4 x | dist5 x | dist6 x | dist7 x | dist8 x | dist9 x | dist10 x | dist11 x | dist12 x | dist13 x | dist14 x |
      dist15 x | dist16 x | dist17 x | dist18 x | dist19 x | dist20 x | dist21 x | dist22 x | dist23 x | dist24 x |
      dist25 x | dist26 x | dist27 x | dist28 x | dist29 x =>
    exact .distance _ _ rfl (fun _ => rfl) (by omega) x.isLt
  all_goals exact .codeLength _ rfl fun _ => rfl

/-- A length element is followed by its distance element. -/
theorem exec_of_isLength {i : Instr} (h : i.isLength = true) :
    i.phase = .symbols ∧ ∃ n x, ∀ s, exec i s = lengthHalf n x s := by
  have hlayout : ∃ n w x, i.layout = .coded .ll n w x := by
    unfold Instr.isLength at h
    split at h
    · next n w x hl => exact ⟨n, w, x, hl⟩
    · cases h
  obtain ⟨n, w, x, hl⟩ := hlayout
  exact ⟨by simp [Instr.phase, hl], n, x, exec_length hl h⟩

/-! ## What each meaning can answer -/

theorem blockHeader_next {f : BitVec 1} {b : BitVec 2} {s t : State} (h : blockHeader f b s = .next t) :
    (b = 2 ∧ t = { s with bfinal := f, btype := b, phase := .dynCounts }) ∨
      t = State.raise .unsupportedBlockType { s with bfinal := f, btype := b } := by
  simp only [blockHeader] at h
  split at h
  · next hb => cases h; exact .inl ⟨hb, rfl⟩
  · cases h; exact .inr rfl

theorem execCllen_next {v : BitVec 3} {s t : State} (h : execCllen v s = .next t) :
    s.cli < 19 ∧ ∃ lens, t = { s with
      clLen := lens, cli := s.cli + 1, phase := if s.cli + 1 = s.ncl then .buildCl else s.phase } := by
  by_cases hcli : s.cli < clOrder.length
  · rw [execCllen_eq v hcli] at h
    cases h
    exact ⟨hcli, _, rfl⟩
  · simp [execCllen, List.getElem?_eq_none (Nat.le_of_not_lt hcli)] at h

theorem execCl16_next {x : BitVec 2} {s t : State} (h : execCl16 x s = .next t) :
    t = State.raise .invalidRunLength { s with sym := 16 } ∨
      ∃ v, clRun (shortRun x.toNat) v { s with sym := 16, extra := x.toNat } = .next t := by
  simp only [execCl16] at h
  split at h
  · cases h; exact .inl rfl
  · exact .inr ⟨_, h⟩

theorem execLit_next {b : BitVec 8} {s t : State} (h : execLit b s = .next t) :
    t = State.raise .outputCapacityExceeded { s with sym := b.toNat } ∨
      (s.overCap 1 = false ∧ t = State.append b { s with sym := b.toNat }) := by
  simp only [execLit] at h
  split at h
  · cases h; exact .inl rfl
  · next hcap => cases h; exact .inr ⟨by simpa [State.overCap] using hcap, rfl⟩

theorem execEob_next {s t : State} (h : execEob s = .next t) :
    (s.bfinal = 1 ∧ t = { s with sym := 256, phase := .done, status := .done }) ∨
      t = { s with sym := 256, phase := .blockHdr } := by
  simp only [execEob] at h
  split at h
  · next hb => cases h; exact .inl ⟨hb, rfl⟩
  · cases h; exact .inr rfl

/-- A copy appends, so it keeps OUT dense (43_block_symbols.md R171). -/
theorem copyLoop_dense {base n k : Nat} {s t : State} {u : Unit} (h : copyLoop base n k s = .ok u t)
    (hs : s.out.dense s.olen = true) : t.out.dense t.olen = true := by
  induction n generalizing k s with
  | zero => cases h; exact hs
  | succ n ih =>
    rw [copyLoop_succ] at h
    split at h
    · cases h
    · next b hb => exact ih h (Memory.dense_append s.out s.olen b hs)

/-- The end of the distance half: a failure, or the copy within the capacity. -/
theorem distanceHalf_answers {m x : Nat} {s t : State} (h : distanceHalf m x s = .next t) :
    (∃ f, t = State.raise f { s with dsym := m, extra := x, distance := matchDistance m x }) ∨
      (s.overCap s.length = false ∧ ∃ offset out,
        t = { s with
          dsym := m, extra := x, distance := matchDistance m x, offset := offset, out := out, olen := s.olen + s.length } ∧
        (offset = s.offset ∨ offset < s.length) ∧
        (s.out.dense s.olen = true → out.dense (s.olen + s.length) = true)) := by
  obtain ⟨f, rfl, -⟩ | ⟨-, hcap, u, hcopy⟩ := distanceHalf_next h
  · exact .inl ⟨f, rfl⟩
  · obtain ⟨ht, -⟩ := copyLoop_ok hcopy
    have holen : t.olen = s.olen + s.length := by rw [ht]
    refine .inr ⟨hcap, _, t.out, ht, ?_, fun hs => holen ▸ copyLoop_dense hcopy hs⟩
    split
    · exact .inl rfl
    · exact .inr (by omega)

/-! ## One induction over a step that reads an element -/

/-- A step from `P` leads to `Q`, where reads and the length half of a back-reference keep `P`, and failures and the last meaning
lead from `P` to `Q`. -/
theorem elementStep_induct {P Q : State → Prop} {s t : State} (h : elementStep s = .next t) (hs : P s)
    (hread : ∀ s u, P s → Scan s u → (s.AtRest → u.AtRest) → P u)
    (hraise : ∀ s u f, P s → Scan s u → Q (u.raise f))
    (hlength : ∀ i u n x, P u → i.phase = u.phase →
      exec i u = .next { u with sym := n, extra := x, length := matchLength n x } →
      P { u with sym := n, extra := x, length := matchLength n x })
    (hexec : ∀ i u t, P u → i.phase = u.phase → exec i u = .next t → Q t) : Q t := by
  obtain h | ⟨i, u, v, hi, hv, hend⟩ := elementStep_next h
  · obtain ⟨u, f, hu, rfl⟩ := (fetchElement_scans s).of_raised h
    exact hraise s u f hs hu
  obtain ⟨hu, hphase, hrest⟩ := (fetchElement_scans s).of_ok hi
  have hPu := hread s u hs hu hrest
  replace hphase : i.phase = u.phase := hphase.trans hu.walkOnly.phase_eq.symm
  obtain ⟨-, rfl⟩ | ⟨hlen, hdist⟩ := hend
  · exact hexec i u t hPu hphase hv
  obtain ⟨hsymbols, n, x, hx⟩ := exec_of_isLength hlen
  obtain rfl : { u with sym := n, extra := x, length := matchLength n x } = v := by
    simpa [lengthHalf, hv] using (hx u).symm
  have hPv := hlength i u n x hPu hphase hv
  obtain h | ⟨j, w, hj, hend⟩ := distanceStep_next hdist
  · obtain ⟨w, f, hw, rfl⟩ := (fetchDist_scans _).of_raised h
    exact hraise _ w f hPv hw
  · obtain ⟨hw, hphase', hrest'⟩ := (fetchDist_scans _).of_ok hj
    refine hexec j w t (hread _ w hPv hw hrest') ?_ hend
    rw [hphase', hw.walkOnly.phase_eq]
    exact hsymbols.symm.trans hphase

/-! ## status and err (10_state.md R27, R28) -/

/-- What a meaning or a step of the sequencer does to `status` and `err`: a failure is raised, both registers stay, or a final
block ends, which happens only where `last` holds. -/
inductive StatusStep (s t : State) (last : Prop) : Prop
  | raises (u : State) (f : Failure) (h : t = u.raise f)
  | goesOn (hstatus : t.status = s.status) (herr : t.err = s.err)
  | ends (hlast : last) (hstatus : t.status = .done) (herr : t.err = s.err) (hfinal : s.bfinal = 1) (hsym : t.sym = 256)

theorem exec_statusStep {i : Instr} {s t : State} (h : exec i s = .next t) : StatusStep s t (i = .eob) := by
  cases exec_meaning i with
  | blockHeader f b hp hi =>
    obtain ⟨-, rfl⟩ | rfl := blockHeader_next (hi s ▸ h)
    · exact .goesOn rfl rfl
    · exact .raises _ _ rfl
  | counts l d c hp hi =>
    cases (hi s).symm.trans h
    exact .goesOn rfl rfl
  | clLength v hp hi =>
    obtain ⟨-, lens, rfl⟩ := execCllen_next (hi s ▸ h)
    exact .goesOn rfl rfl
  | codeLength v hp hi =>
    obtain ⟨-, rfl⟩ := clLiteral_next (hi s ▸ h)
    exact .goesOn rfl rfl
  | repeatLength x hp hi =>
    obtain rfl | ⟨v, hrun⟩ := execCl16_next (hi s ▸ h)
    · exact .raises _ _ rfl
    · obtain ⟨-, rfl⟩ | ⟨-, rfl⟩ := clRun_next hrun
      · exact .raises _ _ rfl
      · exact .goesOn rfl rfl
  | zeroRun sym x rep hp hi =>
    obtain ⟨-, rfl⟩ | ⟨-, rfl⟩ := clRun_next (hi s ▸ h)
    · exact .raises _ _ rfl
    · exact .goesOn rfl rfl
  | literal b hp hi =>
    obtain rfl | ⟨-, rfl⟩ := execLit_next (hi s ▸ h)
    · exact .raises _ _ rfl
    · exact .goesOn rfl rfl
  | endOfBlock hi =>
    subst hi
    obtain ⟨hfinal, rfl⟩ | rfl := execEob_next h
    · exact .ends rfl rfl rfl hfinal rfl
    · exact .goesOn rfl rfl
  | length n x hp hi =>
    cases (hi s).symm.trans h
    exact .goesOn rfl rfl
  | reservedLl n hp hi =>
    cases (hi s).symm.trans h
    exact .raises _ _ rfl
  | distance m x hp hi =>
    obtain ⟨f, rfl⟩ | ⟨-, offset, out, rfl, -⟩ := distanceHalf_answers (hi s ▸ h)
    · exact .raises _ _ rfl
    · exact .goesOn rfl rfl
  | reservedDist m hp hi =>
    cases (hi s).symm.trans h
    exact .raises _ _ rfl

theorem elementStep_statusStep {s t : State} (h : elementStep s = .next t) : StatusStep s t (s.phase = .symbols) := by
  refine elementStep_induct h
    (P := fun u => u.status = s.status ∧ u.err = s.err ∧ u.bfinal = s.bfinal ∧ u.phase = s.phase)
    (Q := fun t => StatusStep s t (s.phase = .symbols)) ⟨rfl, rfl, rfl, rfl⟩ ?_ ?_ ?_ ?_
  · intro u v hu hscan _
    obtain ⟨_, _, _, _, _, rfl⟩ := hscan.walkOnly
    exact hu
  · exact fun _ u f _ _ => .raises u f rfl
  · exact fun _ _ _ _ hu _ _ => hu
  · rintro i u v ⟨hstatus, herr, hbfinal, hphase⟩ hi hexec
    cases exec_statusStep hexec with
    | raises w f hw => exact .raises w f hw
    | goesOn hs he => exact .goesOn (hs.trans hstatus) (he.trans herr)
    | ends hlast hs he hfinal hsym =>
      refine .ends ?_ hs (he.trans herr) (hbfinal ▸ hfinal) hsym
      rw [← hphase, ← hi, hlast]
      rfl

/-- A step of the sequencer starts BUSY, and ends a session DONE from SYMBOLS only. -/
theorem sequencer_statusStep {s t : State} (hquiet : s.hostCmd = none) (h : step s = .next t) :
    s.status = .busy ∧ StatusStep s t (s.phase = .symbols) := by
  obtain ⟨c, hc, -⟩ | ⟨-, hbusy, ⟨-, hcl⟩ | ⟨-, hld⟩ | ⟨-, hel⟩⟩ := step_cases h
  · simp [hquiet] at hc
  · refine ⟨hbusy, ?_⟩
    obtain ⟨c, rfl⟩ | ⟨codes, c, -, rfl⟩ := buildCl_next hcl
    · exact .raises _ _ rfl
    · exact .goesOn rfl rfl
  · refine ⟨hbusy, ?_⟩
    obtain ⟨c, ll, rfl⟩ | ⟨ll, d, c, c', -, -, rfl⟩ := buildLd_next hld
    · exact .raises _ _ rfl
    · exact .goesOn rfl rfl
  · exact ⟨hbusy, elementStep_statusStep hel⟩

/-- A step that takes the host's transaction is a RESET, or an accepted START. -/
theorem step_hostCmd {s t : State} {c : HostCmd} (hc : s.hostCmd = some c) (h : step s = .next t) :
    (c = .reset ∧ t = hostReset s) ∨
      ∃ src p cap, c = .start src p cap ∧ s.status ≠ .busy ∧ p ≤ src.length ∧ t = sessionStart src p cap s := by
  obtain ⟨c', hc', hcmd⟩ | ⟨hquiet, -⟩ := step_cases h
  · obtain rfl : c = c' := by simpa [hc] using hc'
    exact takeHostCmd_next hcmd
  · simp [hc] at hquiet

theorem Failure.code_ne_zero (f : Failure) : f.code ≠ 0 := by
  cases f <;> decide

theorem State.errCode_of_some {s : State} {f : Failure} (h : s.err = some f) : s.errCode = f.code := by
  simp [State.errCode, h]

theorem State.errCode_eq_zero (s : State) : s.errCode = 0 ↔ s.err = none := by
  cases h : s.err with
  | none => simp [State.errCode, h]
  | some f => simpa [State.errCode_of_some h] using f.code_ne_zero

/-- Settles O39: of the ways a step treats `err`, a failure alone writes it, and the host's transactions clear it. -/
theorem errIsWrittenByRaiseOnly : Obligations.ErrIsWrittenByRaiseOnly := by
  refine ⟨⟨rfl, rfl, rfl, rfl, rfl, rfl, rfl, rfl⟩, ?_, ?_, ?_, ?_⟩
  · intro s f hfault herr
    simp [poll, observe, hfault, State.errCode_of_some herr, Status.value]
  · intro s hs
    rw [State.errCode_eq_zero, hs.err_none]
  · intro s hquiet hfault t h
    have hbusy := (sequencer_statusStep hquiet h).1
    simp [hfault] at hbusy
  · intro s t h
    refine ⟨fun hquiet hgoes => ?_, fun hcmd => ?_, fun hquiet hfault => ?_⟩
    · cases (sequencer_statusStep hquiet h).2 with
      | raises u f ht => simp [ht] at hgoes
      | goesOn _ herr => exact herr
      | ends _ _ herr => exact herr
    · obtain ⟨c, hc⟩ := Option.ne_none_iff_exists'.1 hcmd
      obtain ⟨-, rfl⟩ | ⟨src, p, cap, -, -, -, rfl⟩ := step_hostCmd hc h <;> rfl
    · obtain ⟨hbusy, hstep⟩ := sequencer_statusStep hquiet h
      cases hstep with
      | raises u f ht => exact ⟨f, by rw [ht]; rfl, by rw [ht]; rfl, by rw [ht]; exact f.code_ne_zero⟩
      | goesOn hstatus => simp [hstatus, hbusy] at hfault
      | ends _ hdone => simp [hdone] at hfault

/-- Settles O40: the host's transactions and the sequencer's ways with `status`, side by side. -/
theorem statusTransitions : Obligations.StatusTransitions := by
  refine ⟨⟨rfl, rfl, rfl, rfl⟩, fun s t h => ⟨fun src p cap hc => ?_, fun hc => ?_, fun hquiet => ?_⟩⟩
  · obtain ⟨⟨⟩, -⟩ | ⟨_, _, _, -, hidle, -, rfl⟩ := step_hostCmd hc h
    exact ⟨hidle, rfl⟩
  · obtain ⟨-, rfl⟩ | ⟨_, _, _, ⟨⟩, -⟩ := step_hostCmd hc h
    rfl
  · obtain ⟨hbusy, hstep⟩ := sequencer_statusStep hquiet h
    refine ⟨hbusy, ?_⟩
    cases hstep with
    | raises u f ht => exact .inr (.inl (by rw [ht]; rfl))
    | goesOn hstatus => exact .inl (hstatus.trans hbusy)
    | ends hphase hdone _ hfinal hsym => exact .inr (.inr ⟨hdone, hphase, hfinal, hsym⟩)

/-! ## Register widths (10_state.md R21, R24) -/

/-- The running value of BUILD when it ends, in either outcome (41_huffman_builder.md R123, R125). -/
def runningValue {α : Type} : Except Nat (α × Nat) → Nat
  | .error c => c
  | .ok r => r.2

theorem assignLength_runningValue_le (L : Nat) (ls : List Nat) (cs : List (Option Nat)) (code : Nat) (h : code ≤ 2 ^ L) :
    runningValue (assignLength L ls cs code) ≤ 2 ^ L := by
  induction ls generalizing cs code with
  | nil => exact h
  | cons l ls ih =>
    cases cs with
    | nil => exact h
    | cons c cs =>
      simp only [assignLength]
      split
      · split
        · exact h
        · next hfits =>
          have hnext := ih cs (code + 1) (by omega)
          split <;> simpa [runningValue, *] using hnext
      · have hnext := ih cs code h
        split <;> simpa [runningValue, *] using hnext

theorem assignFrom_runningValue_le (lens : List Nat) (first n L : Nat) (codes : List (Option Nat)) (code : Nat)
    (hL : n + L ≤ 16) (h : 2 * code ≤ 2 ^ L) : runningValue (assignFrom lens first n L codes code) ≤ 2 ^ 15 := by
  induction n generalizing L codes code with
  | zero =>
    have : 2 ^ L ≤ 2 ^ 16 := Nat.pow_le_pow_right (by omega) (by omega)
    show code ≤ 2 ^ 15
    omega
  | succ n ih =>
    have hstart : (if first < L then code <<< 1 else code) ≤ 2 ^ L := by
      split
      · rw [Nat.shiftLeft_eq]; omega
      · omega
    have hend := assignLength_runningValue_le L lens codes _ hstart
    simp only [assignFrom]
    split
    · next e he =>
      rw [he] at hend
      exact hend.trans (Nat.pow_le_pow_right (by omega) (by omega))
    · next r hr =>
      rw [hr] at hend
      refine ih (L + 1) r.1 r.2 (by omega) ?_
      rw [Nat.pow_succ]
      simp only [runningValue] at hend
      omega

theorem minLen_le {lens : List Nat} {b : Nat} (h : ∀ l ∈ lens, l ≤ b) : minLen lens ≤ b := by
  unfold minLen
  cases hmin : (lens.filter (· ≠ 0)).min? with
  | none => exact Nat.zero_le b
  | some m => exact h m (List.mem_of_mem_filter (List.min?_mem hmin))

theorem maxLen_le {lens : List Nat} {b : Nat} (h : ∀ l ∈ lens, l ≤ b) : maxLen lens ≤ b := by
  rw [maxLen, List.foldl_eq_foldr]
  exact List.max_le_of_forall_le lens b h

/-- BUILD over lengths of at most 15 bits keeps its running value within its register (10_state.md R24). -/
theorem canonicalCodes_runningValue_le {lens : List Nat} (h : ∀ l ∈ lens, l ≤ 15) :
    runningValue (canonicalCodes lens) ≤ 32768 := by
  have hmin := minLen_le h
  have hmax := maxLen_le h
  exact assignFrom_runningValue_le lens _ _ _ _ 0 (by omega) (by simp)

theorem State.clLens_le (s : State) : ∀ l ∈ s.clLens, l ≤ 15 := by
  simp only [State.clLens, List.mem_map]
  rintro l ⟨v, -, rfl⟩
  omega

theorem State.llLens_le (s : State) : ∀ l ∈ s.llLens, l ≤ 15 := by
  simp only [State.llLens, List.mem_map]
  rintro l ⟨v, -, rfl⟩
  omega

theorem State.dLens_le (s : State) : ∀ l ∈ s.dLens, l ≤ 15 := by
  simp only [State.dLens, List.mem_map]
  rintro l ⟨v, -, rfl⟩
  omega

theorem State.Fits.raise {s : State} {f : Failure} (h : s.Fits) : (s.raise f).Fits := { h with }

/-- BUILD that succeeds writes `code` alone, within its width. -/
theorem build_ok_code_le {lens : List Nat} {codes : List (Option Nat)} {s t : State} (hlens : ∀ l ∈ lens, l ≤ 15)
    (h : build lens s = .ok codes t) : ∃ c, c ≤ 32768 ∧ t = { s with code := c } := by
  obtain ⟨c, hc, rfl⟩ := build_ok h
  have hvalue := canonicalCodes_runningValue_le hlens
  rw [hc] at hvalue
  exact ⟨c, hvalue, rfl⟩

/-- BUILD that raises has written `code` alone, within its width. -/
theorem build_raised_code_le {lens : List Nat} {s t : State} (hlens : ∀ l ∈ lens, l ≤ 15)
    (h : build lens s = .raised t) (hs : s.Fits) :
    ∃ c, c ≤ 32768 ∧ t = State.raise .invalidCodeLengths { s with code := c } := by
  unfold build at h
  split at h
  · cases h
    exact ⟨s.code, hs.code, rfl⟩
  · split at h
    · next c hc =>
      have hvalue := canonicalCodes_runningValue_le hlens
      rw [hc] at hvalue
      cases h
      exact ⟨c, hvalue, rfl⟩
    · cases h

theorem buildCl_fits {s t : State} (hs : s.Fits) (h : buildCl s = .next t) : t.Fits := by
  obtain h | ⟨codes, u, hb, h⟩ := Res.finish_eq_next.1 h
  · obtain ⟨c, hc, rfl⟩ := build_raised_code_le s.clLens_le h hs
    exact State.Fits.raise { hs with code := hc }
  · obtain ⟨c, hc, rfl⟩ := build_ok_code_le s.clLens_le hb
    cases h
    exact { hs with code := hc, idx := Nat.zero_le _ }

theorem buildLd_fits {s t : State} (hs : s.Fits) (h : buildLd s = .next t) : t.Fits := by
  obtain h | ⟨ll, u, hb, h⟩ := Res.finish_eq_next.1 h
  · obtain ⟨c, hc, rfl⟩ := build_raised_code_le s.llLens_le h hs
    exact State.Fits.raise { hs with code := hc }
  · obtain ⟨c, hc, rfl⟩ := build_ok_code_le s.llLens_le hb
    obtain h | ⟨d, v, hd, h⟩ := Res.finish_eq_next.1 h
    · obtain ⟨c', hc', rfl⟩ := build_raised_code_le (State.dLens_le _) h { hs with code := hc }
      exact State.Fits.raise { hs with code := hc' }
    · obtain ⟨c', hc', rfl⟩ := build_ok_code_le (State.dLens_le _) hd
      cases h
      exact { hs with code := hc' }

theorem Scan.fits {s t : State} (h : Scan s t) (hs : s.Fits) : t.Fits := by
  induction h with
  | refl => exact hs
  | fetch h hcnt hpos hb ih => exact { ih with cnt := by simp only; omega }
  | consume n h hn ih => exact { ih with cnt := (Nat.sub_le _ _).trans ih.cnt }
  | walk l v h hl hv ih => exact { ih with wlen := hl, wval := hv }

/-- Both operands of a length element and the length itself (43_block_symbols.md R165). -/
theorem length_operands_le {n x : Nat} (hn : n ≤ 285) (hx : x < 2 ^ llExtraWidth n) :
    x ≤ 31 ∧ matchLength n x ≤ 258 := by
  have hrow : ∀ k ≤ 28, 2 ^ lenExtra.getD k 0 ≤ 32 ∧ lenBase.getD k 0 + 2 ^ lenExtra.getD k 0 ≤ 259 := by decide
  obtain ⟨hwidth, hbase⟩ := hrow (n - Config.lenSymLo) (by simp only [Config.lenSymLo]; omega)
  have hpos := Nat.two_pow_pos (lenExtra.getD (n - Config.lenSymLo) 0)
  unfold matchLength
  unfold llExtraWidth at hx
  split at hx <;> omega

/-- Both operands of a distance element and the distance itself (43_block_symbols.md R168). -/
theorem distance_operands_le {m x : Nat} (hm : m ≤ 29) (hx : x < 2 ^ distExtraWidth m) :
    x ≤ 8191 ∧ matchDistance m x ≤ 32768 := by
  have hrow : ∀ m ≤ 29, 2 ^ distExtraWidth m ≤ 8192 ∧ distBase.getD m 0 + 2 ^ distExtraWidth m ≤ 32769 := by
    decide
  obtain ⟨hwidth, hbase⟩ := hrow m hm
  unfold matchDistance
  omega

theorem clRun_fits {rep : Nat} {v : BitVec 4} {s t : State} (h : clRun rep v s = .next t) (hrep : rep ≤ 138)
    (hs : s.Fits) : t.Fits := by
  obtain ⟨-, rfl⟩ | ⟨hidx, rfl⟩ := clRun_next h
  · exact State.Fits.raise { hs with rep := hrep }
  · exact { hs with rep := hrep, idx := hidx.trans s.total_le }

/-- No meaning takes a register out of its width. -/
theorem exec_fits {i : Instr} {s t : State} (hs : s.Fits) (h : exec i s = .next t) : t.Fits := by
  cases exec_meaning i with
  | blockHeader f b hp hi =>
    obtain ⟨-, rfl⟩ | rfl := blockHeader_next (hi s ▸ h)
    · exact { hs with }
    · exact State.Fits.raise { hs with }
  | counts l d c hp hi =>
    cases (hi s).symm.trans h
    exact { hs with cli := Nat.zero_le _ }
  | clLength v hp hi =>
    obtain ⟨hcli, lens, rfl⟩ := execCllen_next (hi s ▸ h)
    exact { hs with cli := hcli }
  | codeLength v hp hi =>
    obtain ⟨hidx, rfl⟩ := clLiteral_next (hi s ▸ h)
    exact { hs with sym := by simp only; omega, idx := hidx }
  | repeatLength x hp hi =>
    obtain rfl | ⟨v, hrun⟩ := execCl16_next (hi s ▸ h)
    · exact State.Fits.raise { hs with sym := by simp only; omega }
    · exact clRun_fits hrun (by unfold shortRun; omega) { hs with sym := by simp only; omega, extra := by simp only; omega }
  | zeroRun sym x rep hp hi hsym hx hrep =>
    exact clRun_fits ((hi s).symm.trans h) hrep
      { hs with sym := by simp only; omega, extra := by simp only; omega }
  | literal b hp hi =>
    obtain rfl | ⟨-, rfl⟩ := execLit_next (hi s ▸ h)
    · exact State.Fits.raise { hs with sym := by simp only; omega }
    · exact { hs with sym := by simp only [State.append_sym]; omega }
  | endOfBlock hi =>
    subst hi
    obtain ⟨-, rfl⟩ | rfl := execEob_next h <;> exact { hs with sym := by simp only; omega }
  | length n x hp hi hn hx =>
    obtain ⟨hextra, hlength⟩ := length_operands_le hn hx
    cases (hi s).symm.trans h
    exact { hs with sym := by simp only; omega, extra := by simp only; omega, length := hlength }
  | reservedLl n hp hi hn =>
    cases (hi s).symm.trans h
    exact State.Fits.raise { hs with sym := hn }
  | distance m x hp hi hm hx =>
    obtain ⟨hextra, hdistance⟩ := distance_operands_le hm hx
    have hfits : State.Fits { s with dsym := m, extra := x, distance := matchDistance m x } :=
      { hs with dsym := by simp only; omega, extra := hextra, distance := hdistance }
    obtain ⟨f, rfl⟩ | ⟨-, offset, out, rfl, hoffset, -⟩ := distanceHalf_answers (hi s ▸ h)
    · exact hfits.raise
    · have hlength := hs.length
      have hold := hs.offset
      exact { hfits with offset := by simp only; omega }
  | reservedDist m hp hi hm =>
    cases (hi s).symm.trans h
    exact State.Fits.raise { hs with dsym := hm }

/-- Settles O48: what is read, what an element means and what a build writes each stay within the widths; START and RESET zero
the counters they write. -/
theorem stepKeepsRegisterWidths : Obligations.StepKeepsRegisterWidths := by
  intro s t hs h
  obtain ⟨c, -, hcmd⟩ | ⟨-, -, ⟨-, hcl⟩ | ⟨-, hld⟩ | ⟨-, hel⟩⟩ := step_cases h
  · obtain ⟨-, rfl⟩ | ⟨src, p, cap, -, -, -, rfl⟩ := takeHostCmd_next hcmd
    · exact { hs with cnt := Nat.zero_le _ }
    · exact { hs with cnt := Nat.zero_le _, wlen := Nat.zero_le _, wval := Nat.one_pos }
  · exact buildCl_fits hs hcl
  · exact buildLd_fits hs hld
  · exact elementStep_induct (P := State.Fits) hel hs (fun _ _ hu hscan _ => hscan.fits hu)
      (fun _ _ _ hu hscan => (hscan.fits hu).raise) (fun _ _ _ _ hu _ hexec => exec_fits hu hexec)
      fun _ _ _ hu _ hexec => exec_fits hu hexec

/-! ## The BitCursor under reads (10_state.md R23) -/

/-- All that `State.CursorOk` speaks of. -/
def State.bitSource (s : State) : Acc × Nat × Nat × Memory × Nat × Nat :=
  (s.acc, s.cnt, s.pos, s.src, s.srcLen, s.startPos)

theorem State.CursorOk.congr {s t : State} (h : s.CursorOk) (heq : t.bitSource = s.bitSource) : t.CursorOk := by
  cases s
  cases t
  simp only [State.bitSource, Prod.mk.injEq] at heq
  obtain ⟨rfl, rfl, rfl, rfl, rfl, rfl⟩ := heq
  exact { h with }

/-- The bits of a fetched byte stand in the stream at its index (20_memory.md R54). -/
theorem State.streamBit_of_read {s : State} {p j : Nat} {b : Byte} (h : s.src.read p = some b) (hj : j < 8) :
    s.streamBit (8 * p + j) = b.getLsbD j := by
  have hdiv : (8 * p + j) / 8 = p := by omega
  have hmod : (8 * p + j) % 8 = j := by omega
  simp [State.streamBit, hdiv, hmod, h]

/-- One turn of the refill loop (40_bitreader.md R101). -/
theorem State.CursorOk.fetch {s : State} {b : Byte} (h : s.CursorOk) (hcnt : s.cnt < 16) (hpos : s.pos < s.srcLen)
    (hb : s.src.read s.pos = some b) :
    State.CursorOk { s with pos := s.pos + 1, acc := s.acc ||| (b.setWidth 24 <<< s.cnt), cnt := s.cnt + 8 } where
  acc_lt := by
    have hacc : s.acc.toNat < 2 ^ (s.cnt + 8) := lt_of_lt_of_le h.acc_lt (Nat.pow_le_pow_right (by omega) (by omega))
    have hbyte : (b.setWidth 24 <<< s.cnt).toNat < 2 ^ (s.cnt + 8) := by
      rw [BitVec.toNat_shiftLeft, Nat.shiftLeft_eq, Nat.pow_add, Nat.mul_comm (2 ^ s.cnt)]
      refine lt_of_le_of_lt (Nat.mod_le _ _) (Nat.mul_lt_mul_of_pos_right ?_ (Nat.two_pow_pos _))
      rw [BitVec.toNat_setWidth]
      exact lt_of_le_of_lt (Nat.mod_le _ _) b.isLt
    simpa using Nat.or_lt_two_pow hacc hbyte
  cnt_le := by simp only; omega
  cnt_fetched := by
    have := h.cnt_fetched
    have := h.start_le
    simp only
    omega
  start_le := h.start_le.trans (Nat.le_succ _)
  pos_le := hpos
  acc_bits := by
    intro i hi
    simp only at hi
    have hfetched := h.cnt_fetched
    have hbitpos : State.bitpos { s with
        pos := s.pos + 1, acc := s.acc ||| (b.setWidth 24 <<< s.cnt), cnt := s.cnt + 8 } = s.bitpos := by
      simp only [State.bitpos]
      omega
    rw [hbitpos]
    show _ = s.streamBit (s.bitpos + i)
    rw [BitVec.getLsbD_or, BitVec.getLsbD_shiftLeft, BitVec.getLsbD_setWidth]
    by_cases hold : i < s.cnt
    · simpa [hold] using h.acc_bits i hold
    · have hclear : s.acc.getLsbD i = false :=
        Nat.testBit_lt_two_pow (lt_of_lt_of_le h.acc_lt (Nat.pow_le_pow_right (by omega) (by omega)))
      have hindex : s.bitpos + i = 8 * s.pos + (i - s.cnt) := by simp only [State.bitpos]; omega
      have hbit := State.streamBit_of_read (j := i - s.cnt) hb (by omega)
      have h24 : i < 24 := by omega
      have h24' : i - s.cnt < 24 := by omega
      simp only [hclear, hold, h24, h24', decide_true, decide_false, Bool.not_false, Bool.true_and, Bool.false_or]
      rw [hindex]
      exact hbit.symm
  src_dense := h.src_dense

/-- Consuming `n` buffered bits (40_bitreader.md R101). -/
theorem State.CursorOk.consume {s : State} {n : Nat} (h : s.CursorOk) (hn : n ≤ s.cnt) :
    State.CursorOk { s with acc := s.acc >>> n, cnt := s.cnt - n } where
  acc_lt := by
    have hacc : s.acc.toNat < 2 ^ (s.cnt - n) * 2 ^ n := by
      rw [← Nat.pow_add, Nat.sub_add_cancel hn]
      exact h.acc_lt
    simpa [Nat.shiftRight_eq_div_pow] using (Nat.div_lt_iff_lt_mul (Nat.two_pow_pos n)).2 hacc
  cnt_le := (Nat.sub_le _ _).trans h.cnt_le
  cnt_fetched := (Nat.sub_le _ _).trans h.cnt_fetched
  start_le := h.start_le
  pos_le := h.pos_le
  acc_bits := by
    intro i hi
    simp only at hi
    have hfetched := h.cnt_fetched
    have hindex : State.bitpos { s with acc := s.acc >>> n, cnt := s.cnt - n } + i = s.bitpos + (n + i) := by
      simp only [State.bitpos]
      omega
    rw [hindex, BitVec.getLsbD_ushiftRight]
    exact h.acc_bits (n + i) (by omega)
  src_dense := h.src_dense

theorem Scan.cursorOk {s t : State} (h : Scan s t) (hs : s.CursorOk) : t.CursorOk := by
  induction h with
  | refl => exact hs
  | fetch h hcnt hpos hb ih => exact ih.fetch hcnt hpos hb
  | consume n h hn ih => exact ih.consume hn
  | walk l v h hl hv ih => exact ih.congr rfl

/-! ## The invariant of a session -/

/-- In FAULT the invariant is what fault entry leaves untouched (60_exceptions.md R214). -/
theorem State.inv_raise {s : State} {f : Failure} (hcursor : s.CursorOk) (hout : s.out.dense s.olen = true)
    (hcap : ∀ cap, s.outCap = some cap → s.olen ≤ cap) : (s.raise f).Inv where
  phase_status := rfl
  err_none := by simp
  cursor := fun _ => hcursor.congr rfl
  cursor_idle := nofun
  cnt_boundary := fun h => absurd rfl h
  src_dense := hcursor.src_dense
  out_dense := hout
  within_cap := hcap
  walk_empty := by simp
  cl_lens := nofun
  build_cl := nofun
  cl_syms := nofun
  build_ld := nofun
  dynamic := by simp
  done_final := nofun

theorem State.Inv.cursorOk {s : State} (h : s.Inv) (hbusy : s.status = .busy) : s.CursorOk :=
  h.cursor (by simp [hbusy])

theorem State.Inv.atRest {s : State} (h : s.Inv) (hbusy : s.status = .busy) : s.AtRest :=
  ⟨h.cnt_boundary (by simp [hbusy]), (h.walk_empty (.inl hbusy)).1, (h.walk_empty (.inl hbusy)).2⟩

/-- A meaning that raises has touched neither the BitCursor nor OUT before. -/
theorem State.Inv.raise {s u : State} {f : Failure} (hs : s.Inv) (hbusy : s.status = .busy)
    (hcursor : u.bitSource = s.bitSource) (hout : u.out = s.out) (holen : u.olen = s.olen) (hcap : u.outCap = s.outCap) :
    (u.raise f).Inv :=
  State.inv_raise ((hs.cursorOk hbusy).congr hcursor) (by rw [hout, holen]; exact hs.out_dense)
    (by rw [hcap, holen]; exact hs.within_cap)

/-- A read that fails ends in FAULT with a sound BitCursor. -/
theorem Scan.inv_raise {s t : State} {f : Failure} (h : Scan s t) (hs : s.Inv) (hbusy : s.status = .busy) :
    (t.raise f).Inv := by
  have hcursor := h.cursorOk (hs.cursorOk hbusy)
  obtain ⟨_, _, _, _, _, rfl⟩ := h.walkOnly
  exact State.inv_raise hcursor hs.out_dense hs.within_cap

/-- A read that ends at rest keeps the invariant. -/
theorem Scan.inv {s t : State} (h : Scan s t) (hs : s.Inv) (hbusy : s.status = .busy) (hrest : t.AtRest) : t.Inv := by
  have hcursor := h.cursorOk (hs.cursorOk hbusy)
  obtain ⟨_, _, _, _, _, rfl⟩ := h.walkOnly
  exact { hs with
    cursor := fun _ => hcursor
    cursor_idle := fun hidle => by simp [hbusy] at hidle
    cnt_boundary := fun _ => hrest.cnt_le
    walk_empty := fun _ => ⟨hrest.wlen_zero, hrest.wval_zero⟩ }

theorem State.le_cap_of_not_overCap {s : State} {n cap : Nat} (h : s.overCap n = false) (hcap : s.outCap = some cap) :
    s.olen + n ≤ cap := by
  simpa [State.overCap, hcap] using h

section Meanings

variable {s t : State} (hs : s.Inv) (hbusy : s.status = .busy)
include hs hbusy

/-- The end of the CLSYM frame, with at most `total` lengths written (42_dynamic_header.md R144, R149). -/
theorem clSymEnd_inv (hp : s.phase = .clSyms) (sym extra rep idx : Nat) (lens : Vector (BitVec 4) 320)
    (hidx : idx ≤ s.total) :
    State.Inv { s with
      sym := sym, extra := extra, rep := rep, lens := lens, idx := idx
      phase := if idx = s.total then .buildLd else s.phase } := by
  have hcursor := hs.cursorOk hbusy
  have hdynamic : s.btype = 2 := hs.dynamic (by simp [hp]) (.inl hbusy)
  by_cases hfull : idx = s.total
  · rw [if_pos hfull]
    exact { hs with
      phase_status := hbusy, cursor := fun _ => hcursor.congr rfl, cl_lens := nofun, build_cl := nofun, cl_syms := nofun
      build_ld := fun _ => hfull, dynamic := fun _ _ => hdynamic }
  · rw [if_neg hfull]
    exact { hs with
      cursor := fun _ => hcursor.congr rfl, cl_syms := fun _ => lt_of_le_of_ne hidx hfull
      build_ld := fun h => by simp [hp] at h }

theorem clRun_inv (hp : s.phase = .clSyms) {rep sym x : Nat} {v : BitVec 4}
    (h : clRun rep v { s with sym := sym, extra := x } = .next t) : t.Inv := by
  obtain ⟨-, rfl⟩ | ⟨hidx, rfl⟩ := clRun_next h
  · exact hs.raise hbusy rfl rfl rfl rfl
  · exact clSymEnd_inv hs hbusy hp sym x rep _ _ hidx

/-- Bytes appended in SYMBOLS within the capacity, with any working registers (43_block_symbols.md R161, R171, R173). -/
theorem output_inv {n : Nat} {out : Memory} (hcap : s.overCap n = false) (hout : out.dense (s.olen + n) = true)
    (sym extra dsym distance offset : Nat) :
    State.Inv { s with
      sym := sym, extra := extra, dsym := dsym, distance := distance, offset := offset, out := out, olen := s.olen + n } :=
  { hs with
    cursor := fun _ => (hs.cursorOk hbusy).congr rfl, out_dense := hout
    within_cap := fun _ => State.le_cap_of_not_overCap hcap }

/-- Every meaning keeps the invariant in the phase its element is read in. -/
theorem exec_inv {i : Instr} (hphase : i.phase = s.phase) (h : exec i s = .next t) : t.Inv := by
  have hcursor := hs.cursorOk hbusy
  have hdynamic : s.phase ≠ .blockHdr → s.btype = 2 := fun hp => hs.dynamic hp (.inl hbusy)
  cases exec_meaning i with
  | blockHeader f b hp hi =>
    obtain ⟨hb, rfl⟩ | rfl := blockHeader_next (hi s ▸ h)
    · exact { hs with
        phase_status := hbusy, cursor := fun _ => hcursor.congr rfl, cl_lens := nofun, build_cl := nofun, cl_syms := nofun
        build_ld := nofun, dynamic := fun _ _ => hb, done_final := fun h => by simp [hbusy] at h }
    · exact hs.raise hbusy rfl rfl rfl rfl
  | counts l d c hp hi =>
    rw [hphase] at hp
    cases (hi s).symm.trans h
    exact { hs with
      phase_status := hbusy, cursor := fun _ => hcursor.congr rfl, cl_lens := fun _ => Nat.succ_pos _, build_cl := nofun
      cl_syms := nofun, build_ld := nofun, dynamic := fun _ _ => hdynamic (by simp [hp]) }
  | clLength v hp hi =>
    rw [hphase] at hp
    obtain ⟨-, lens, rfl⟩ := execCllen_next (hi s ▸ h)
    have hcli := hs.cl_lens hp
    by_cases hlast : s.cli + 1 = s.ncl
    · rw [if_pos hlast]
      exact { hs with
        phase_status := hbusy, cursor := fun _ => hcursor.congr rfl, cl_lens := nofun, build_cl := fun _ => hlast
        cl_syms := nofun, build_ld := nofun, dynamic := fun _ _ => hdynamic (by simp [hp]) }
    · rw [if_neg hlast]
      exact { hs with
        cursor := fun _ => hcursor.congr rfl, cl_lens := fun _ => lt_of_le_of_ne hcli hlast
        build_cl := fun h => by simp [hp] at h }
  | codeLength v hp hi =>
    rw [hphase] at hp
    obtain ⟨-, rfl⟩ := clLiteral_next (hi s ▸ h)
    exact clSymEnd_inv hs hbusy hp _ _ _ _ _ (hs.cl_syms hp)
  | repeatLength x hp hi =>
    obtain rfl | ⟨v, hrun⟩ := execCl16_next (hi s ▸ h)
    · exact hs.raise hbusy rfl rfl rfl rfl
    · exact clRun_inv hs hbusy (hphase.symm.trans hp) hrun
  | zeroRun sym x rep hp hi => exact clRun_inv hs hbusy (hphase.symm.trans hp) ((hi s).symm.trans h)
  | literal b hp hi =>
    obtain rfl | ⟨hcap, rfl⟩ := execLit_next (hi s ▸ h)
    · exact hs.raise hbusy rfl rfl rfl rfl
    · exact output_inv hs hbusy hcap (Memory.dense_append _ _ b hs.out_dense) _ _ _ _ _
  | endOfBlock hi =>
    subst hi
    have hp : s.phase = .symbols := hphase.symm
    have hbtype := hdynamic (by simp [hp])
    have herr : s.err = none := hs.err_none.2 (by simp [hbusy])
    obtain ⟨hfinal, rfl⟩ | rfl := execEob_next h
    · exact { hs with
        phase_status := rfl, err_none := by simp [herr], cursor := fun _ => hcursor.congr rfl, cursor_idle := nofun
        cnt_boundary := fun _ => (hs.atRest hbusy).cnt_le, walk_empty := fun _ => hs.walk_empty (.inl hbusy)
        cl_lens := nofun, build_cl := nofun, cl_syms := nofun
        build_ld := nofun, dynamic := fun _ _ => hbtype, done_final := fun _ => hfinal }
    · exact { hs with
        phase_status := hbusy, cursor := fun _ => hcursor.congr rfl, cl_lens := nofun, build_cl := nofun, cl_syms := nofun
        build_ld := nofun, dynamic := fun h => absurd rfl h }
  | length n x hp hi =>
    cases (hi s).symm.trans h
    exact { hs with cursor := fun _ => hcursor.congr rfl }
  | reservedLl n hp hi =>
    cases (hi s).symm.trans h
    exact hs.raise hbusy rfl rfl rfl rfl
  | distance m x hp hi =>
    obtain ⟨f, rfl⟩ | ⟨hcap, offset, out, rfl, -, hdense⟩ := distanceHalf_answers (hi s ▸ h)
    · exact hs.raise hbusy rfl rfl rfl rfl
    · exact output_inv hs hbusy hcap (hdense hs.out_dense) _ _ _ _ _
  | reservedDist m hp hi =>
    cases (hi s).symm.trans h
    exact hs.raise hbusy rfl rfl rfl rfl

theorem buildCl_inv (hp : s.phase = .buildCl) (h : buildCl s = .next t) : t.Inv := by
  have htotal : 0 < s.total := by simp only [State.total, State.nlit]; omega
  obtain ⟨c, rfl⟩ | ⟨codes, c, -, rfl⟩ := buildCl_next h
  · exact hs.raise hbusy rfl rfl rfl rfl
  · exact { hs with
      phase_status := hbusy, cursor := fun _ => (hs.cursorOk hbusy).congr rfl, cl_lens := nofun, build_cl := nofun
      cl_syms := fun _ => htotal, build_ld := nofun, dynamic := fun _ => hs.dynamic (by simp [hp]) }

theorem buildLd_inv (hp : s.phase = .buildLd) (h : buildLd s = .next t) : t.Inv := by
  obtain ⟨c, ll, rfl⟩ | ⟨ll, d, c, c', -, -, rfl⟩ := buildLd_next h
  · exact hs.raise hbusy rfl rfl rfl rfl
  · exact { hs with
      phase_status := hbusy, cursor := fun _ => (hs.cursorOk hbusy).congr rfl, cl_lens := nofun, build_cl := nofun
      cl_syms := nofun, build_ld := nofun, dynamic := fun _ => hs.dynamic (by simp [hp]) }

end Meanings

theorem elementStep_inv {s t : State} (hs : s.Inv) (hbusy : s.status = .busy) (h : elementStep s = .next t) : t.Inv := by
  refine elementStep_induct (P := fun u => u.Inv ∧ u.status = .busy) h ⟨hs, hbusy⟩ ?_ ?_ ?_ ?_
  · intro u v ⟨hu, hb⟩ hscan hrest
    refine ⟨hscan.inv hu hb (hrest (hu.atRest hb)), ?_⟩
    obtain ⟨_, _, _, _, _, rfl⟩ := hscan.walkOnly
    exact hb
  · exact fun u v f ⟨hu, hb⟩ hscan => hscan.inv_raise hu hb
  · exact fun i u n x ⟨hu, hb⟩ hi hexec => ⟨exec_inv hu hb hi hexec, hb⟩
  · exact fun i u v ⟨hu, hb⟩ hi hexec => exec_inv hu hb hi hexec

theorem hostReset_inv {s : State} (hsrc : s.src.dense s.srcLen = true) : (hostReset s).Inv where
  phase_status := rfl
  err_none := by simp
  cursor := fun h => absurd rfl h
  cursor_idle := fun _ => ⟨rfl, rfl⟩
  cnt_boundary := fun _ => Nat.zero_le _
  src_dense := hsrc
  out_dense := rfl
  within_cap := fun _ _ => Nat.zero_le _
  walk_empty := by simp
  cl_lens := nofun
  build_cl := nofun
  cl_syms := nofun
  build_ld := nofun
  dynamic := by simp
  done_final := nofun

theorem sessionStart_cursorOk {src : List Byte} {p : Nat} (cap : Option Nat) (s : State) (hp : p ≤ src.length) :
    (sessionStart src p cap s).CursorOk where
  acc_lt := by simp
  cnt_le := Nat.zero_le _
  cnt_fetched := Nat.zero_le _
  start_le := le_rfl
  pos_le := hp
  acc_bits := nofun
  src_dense := Memory.ofBytes_dense src

theorem sessionStart_inv {src : List Byte} {p : Nat} (cap : Option Nat) (s : State) (hp : p ≤ src.length) :
    (sessionStart src p cap s).Inv where
  phase_status := rfl
  err_none := by simp
  cursor := fun _ => sessionStart_cursorOk cap s hp
  cursor_idle := nofun
  cnt_boundary := fun _ => Nat.zero_le _
  src_dense := Memory.ofBytes_dense src
  out_dense := rfl
  within_cap := fun _ _ => Nat.zero_le _
  walk_empty := fun _ => ⟨rfl, rfl⟩
  cl_lens := nofun
  build_cl := nofun
  cl_syms := nofun
  build_ld := nofun
  dynamic := fun h => absurd rfl h
  done_final := nofun

/-- Settles O46: the host's transactions establish the invariant, the builds and every element keep it. -/
theorem stepKeepsInvariant : Obligations.StepKeepsInvariant := by
  intro s t hs h
  obtain ⟨c, -, hcmd⟩ | ⟨-, hbusy, ⟨hp, hcl⟩ | ⟨hp, hld⟩ | ⟨-, hel⟩⟩ := step_cases h
  · obtain ⟨-, rfl⟩ | ⟨src, p, cap, -, -, hp, rfl⟩ := takeHostCmd_next hcmd
    · exact hostReset_inv hs.src_dense
    · exact sessionStart_inv cap s hp
  · exact buildCl_inv hs hbusy hp hcl
  · exact buildLd_inv hs hbusy hp hld
  · exact elementStep_inv hs hbusy hel

/-! ## The reset state (10_state.md R40) -/

/-- Settles O44: the fields of `State.reset`. -/
theorem resetValues : Obligations.ResetValues := ⟨rfl, rfl, rfl, rfl, rfl, rfl, rfl, rfl⟩

/-- The reset state is the RESET of itself. -/
theorem reset_inv : State.reset.Inv := hostReset_inv (s := State.reset) rfl

theorem reset_fits : State.reset.Fits := by
  constructor <;> decide

/-- Settles O47: at reset every register is 0, and no phase decodes with a table. -/
theorem resetMeetsInvariants : Obligations.ResetMeetsInvariants :=
  ⟨reset_inv, reset_fits, ⟨nofun, nofun, nofun⟩⟩

end Sys2Proof.Machine

namespace Sys2Proof.Machine

/-! # What a session reads and what it keeps (20_memory.md)

Two relations carry the family. `Grows s t`: the sequencer gets from `s` to `t` by moving on in SRC and appending to OUT. `Follows`:
on another source that agrees with SRC from `pos` to its end (`State.Agrees`), an operation answers the same, but for a session that
has run out of a shorter SRC. -/

/-! ## Moving forward (20_memory.md R50, R52) -/

/-- All of a state that the memory rules speak of. -/
def State.memoryView (s : State) : (Acc × Nat × Nat × Memory × Nat × Nat) × Memory × Nat × Option Nat × Option HostCmd :=
  (s.bitSource, s.out, s.olen, s.outCap, s.hostCmd)

/-- `t` has the source and the parameters of `s`, has read no less of the source, and has the output of `s` and perhaps more. -/
structure Grows (s t : State) : Prop where
  src_eq : t.src = s.src
  srcLen_eq : t.srcLen = s.srcLen
  startPos_eq : t.startPos = s.startPos
  outCap_eq : t.outCap = s.outCap
  hostCmd_eq : t.hostCmd = s.hostCmd
  pos_le : s.pos ≤ t.pos
  bitpos_le : s.bitpos ≤ t.bitpos
  olen_le : s.olen ≤ t.olen
  out_kept : ∀ a < s.olen, t.out.read a = s.out.read a

theorem Grows.of_memoryView_eq {s t : State} (h : t.memoryView = s.memoryView) : Grows s t := by
  cases s
  cases t
  simp only [State.memoryView, State.bitSource, Prod.mk.injEq] at h
  obtain ⟨⟨rfl, rfl, rfl, rfl, rfl, rfl⟩, rfl, rfl, rfl, rfl⟩ := h
  exact ⟨rfl, rfl, rfl, rfl, rfl, le_rfl, le_rfl, le_rfl, fun _ _ => rfl⟩

theorem Grows.refl (s : State) : Grows s s := .of_memoryView_eq rfl

theorem Grows.trans {s t u : State} (h : Grows s t) (h' : Grows t u) : Grows s u where
  src_eq := h'.src_eq.trans h.src_eq
  srcLen_eq := h'.srcLen_eq.trans h.srcLen_eq
  startPos_eq := h'.startPos_eq.trans h.startPos_eq
  outCap_eq := h'.outCap_eq.trans h.outCap_eq
  hostCmd_eq := h'.hostCmd_eq.trans h.hostCmd_eq
  pos_le := h.pos_le.trans h'.pos_le
  bitpos_le := h.bitpos_le.trans h'.bitpos_le
  olen_le := h.olen_le.trans h'.olen_le
  out_kept := fun a ha => (h'.out_kept a (ha.trans_le h.olen_le)).trans (h.out_kept a ha)

theorem Grows.congr_left {s t u : State} (h : Grows u t) (hu : u.memoryView = s.memoryView) : Grows s t :=
  (Grows.of_memoryView_eq hu).trans h

theorem Grows.raise {s t : State} (h : Grows s t) (f : Failure) : Grows s (t.raise f) :=
  h.trans (.of_memoryView_eq rfl)

/-- Fetching a byte keeps the bit position, consuming bits raises it. -/
theorem Scan.grows {s t : State} (h : Scan s t) : Grows s t := by
  induction h with
  | refl => exact .refl s
  | fetch h hcnt hpos hb ih =>
    refine ih.trans ⟨rfl, rfl, rfl, rfl, rfl, Nat.le_succ _, ?_, le_rfl, fun _ _ => rfl⟩
    simp only [State.bitpos]
    omega
  | consume n h hn ih =>
    refine ih.trans ⟨rfl, rfl, rfl, rfl, rfl, le_rfl, ?_, le_rfl, fun _ _ => rfl⟩
    simp only [State.bitpos]
    omega
  | walk l v h hl hv ih => exact ih.trans (.of_memoryView_eq rfl)

/-- An append writes above every byte that is there (20_memory.md R52). -/
theorem State.append_grows (b : Byte) (s : State) : Grows s (s.append b) :=
  ⟨rfl, rfl, rfl, rfl, rfl, le_rfl, le_rfl, Nat.le_succ _,
    fun a ha => Memory.read_write_other s.out s.olen a b (Nat.ne_of_lt ha)⟩

theorem copyLoop_grows {base n k : Nat} {s t : State} {u : Unit} (h : copyLoop base n k s = .ok u t) : Grows s t := by
  induction n generalizing k s with
  | zero => cases h; exact .refl _
  | succ n ih =>
    rw [copyLoop_succ] at h
    split at h
    · cases h
    · next b hb =>
      refine Grows.trans ?_ (ih h)
      exact (State.append_grows b _).congr_left rfl

theorem clRun_grows {rep : Nat} {v : BitVec 4} {s t : State} (h : clRun rep v s = .next t) : Grows s t := by
  obtain ⟨-, rfl⟩ | ⟨-, rfl⟩ := clRun_next h <;> exact .of_memoryView_eq rfl

theorem distanceHalf_grows {m x : Nat} {s t : State} (h : distanceHalf m x s = .next t) : Grows s t := by
  obtain ⟨f, rfl, -⟩ | ⟨-, -, u, hcopy⟩ := distanceHalf_next h
  · exact .of_memoryView_eq rfl
  · exact (copyLoop_grows hcopy).congr_left rfl

/-- No meaning lowers the position in SRC or changes a byte of OUT that is there. -/
theorem exec_grows {i : Instr} {s t : State} (h : exec i s = .next t) : Grows s t := by
  cases exec_meaning i with
  | blockHeader f b hp hi => obtain ⟨-, rfl⟩ | rfl := blockHeader_next (hi s ▸ h) <;> exact .of_memoryView_eq rfl
  | counts l d c hp hi => cases (hi s).symm.trans h; exact .of_memoryView_eq rfl
  | clLength v hp hi => obtain ⟨-, lens, rfl⟩ := execCllen_next (hi s ▸ h); exact .of_memoryView_eq rfl
  | codeLength v hp hi => obtain ⟨-, rfl⟩ := clLiteral_next (hi s ▸ h); exact .of_memoryView_eq rfl
  | repeatLength x hp hi =>
    obtain rfl | ⟨v, hrun⟩ := execCl16_next (hi s ▸ h)
    · exact .of_memoryView_eq rfl
    · exact (clRun_grows hrun).congr_left rfl
  | zeroRun sym x rep hp hi => exact (clRun_grows ((hi s).symm.trans h)).congr_left rfl
  | literal b hp hi =>
    obtain rfl | ⟨-, rfl⟩ := execLit_next (hi s ▸ h)
    · exact .of_memoryView_eq rfl
    · exact (State.append_grows b _).congr_left rfl
  | endOfBlock hi =>
    subst hi
    obtain ⟨-, rfl⟩ | rfl := execEob_next h <;> exact .of_memoryView_eq rfl
  | length n x hp hi => cases (hi s).symm.trans h; exact .of_memoryView_eq rfl
  | reservedLl n hp hi => cases (hi s).symm.trans h; exact .of_memoryView_eq rfl
  | distance m x hp hi => exact distanceHalf_grows ((hi s).symm.trans h)
  | reservedDist m hp hi => cases (hi s).symm.trans h; exact .of_memoryView_eq rfl

/-- Every step of the sequencer moves forward. -/
theorem step_grows {s t : State} (hquiet : s.hostCmd = none) (h : step s = .next t) : Grows s t := by
  obtain ⟨c, hc, -⟩ | ⟨-, -, ⟨-, hcl⟩ | ⟨-, hld⟩ | ⟨-, hel⟩⟩ := step_cases h
  · simp [hquiet] at hc
  · obtain ⟨c, rfl⟩ | ⟨codes, c, -, rfl⟩ := buildCl_next hcl <;> exact .of_memoryView_eq rfl
  · obtain ⟨c, ll, rfl⟩ | ⟨ll, d, c, c', -, -, rfl⟩ := buildLd_next hld <;> exact .of_memoryView_eq rfl
  · exact elementStep_induct (P := Grows s) (Q := Grows s) hel (.refl s) (fun _ _ hu hscan _ => hu.trans hscan.grows)
      (fun _ _ f hu hscan => (hu.trans hscan.grows).raise f) (fun _ _ _ _ hu _ hexec => hu.trans (exec_grows hexec))
      fun _ _ _ hu _ hexec => hu.trans (exec_grows hexec)

/-- Settles O52: the fields of `Grows`, in any state; the invariant is not needed for the bit position. -/
theorem stepOnlyMovesForward : Obligations.StepOnlyMovesForward := by
  intro s t hquiet h
  have hgrows := step_grows hquiet h
  exact ⟨hgrows.src_eq, hgrows.srcLen_eq, hgrows.startPos_eq, hgrows.outCap_eq, hgrows.hostCmd_eq.trans hquiet,
    hgrows.olen_le, hgrows.out_kept, fun _ => hgrows.bitpos_le⟩

/-! ## The same session on another source (20_memory.md R51) -/

/-- `s` with `m` of length `n` for its source. -/
def State.onSource (m : Memory) (n : Nat) (s : State) : State := { s with src := m, srcLen := n }

/-- `m` holds the bytes of SRC that are not fetched yet, and `n` is no less than `src_len`. -/
structure State.Agrees (m : Memory) (n : Nat) (s : State) : Prop where
  srcLen_le : s.srcLen ≤ n
  read_eq : ∀ a, s.pos ≤ a → a < s.srcLen → m.read a = s.src.read a

/-- Moving forward leaves less of the source to agree on. -/
theorem Grows.agrees {m : Memory} {n : Nat} {s t : State} (h : Grows s t) (hs : s.Agrees m n) : t.Agrees m n where
  srcLen_le := h.srcLen_eq ▸ hs.srcLen_le
  read_eq := by
    rw [h.src_eq, h.srcLen_eq]
    exact fun a ha => hs.read_eq a (h.pos_le.trans ha)

/-- `t` has failed on a source shorter than `n`, where a session on a source of length `n` may go on. -/
def State.CutShort (n : Nat) (t : State) : Prop := t.status = .fault ∧ t.srcLen < n

/-- `r'` is `r` on the source `m` of length `n`, unless `r` was cut short. -/
def Res.Follows {α : Type} (m : Memory) (n : Nat) (r r' : Res α) : Prop :=
  match r with
  | .ok v t => r' = .ok v (t.onSource m n) ∧ t.Agrees m n
  | .raised t => r' = .raised (t.onSource m n) ∨ t.CutShort n
  | .stop x => r' = .stop x
  | .refuse x => r' = .refuse x

/-- `o'` is `o` on the source `m` of length `n`, unless `o` was cut short. -/
def StepFollows (m : Memory) (n : Nat) (o o' : Host.Outcome State Fault Refusal) : Prop :=
  match o with
  | .next t => o' = .next (t.onSource m n) ∨ t.CutShort n
  | .fault x => o' = .fault x
  | .refused x => o' = .refused x

section Follows

variable {m : Memory} {n : Nat}

theorem Res.Follows.bind {α β : Type} {r r' : Res α} {f : α → State → Res β} (h : r.Follows m n r')
    (hf : ∀ v t, t.Agrees m n → (f v t).Follows m n (f v (t.onSource m n))) : (r.bind f).Follows m n (r'.bind f) := by
  cases r with
  | ok v t => obtain ⟨rfl, ht⟩ := h; exact hf v t ht
  | raised t =>
    obtain rfl | hcut := h
    · exact .inl rfl
    · exact .inr hcut
  | stop x => cases h; rfl
  | refuse x => cases h; rfl

theorem Res.Follows.finish {α : Type} {r r' : Res α} {f : α → State → Host.Outcome State Fault Refusal}
    (h : r.Follows m n r') (hf : ∀ v t, t.Agrees m n → StepFollows m n (f v t) (f v (t.onSource m n))) :
    StepFollows m n (r.finish f) (r'.finish f) := by
  cases r with
  | ok v t => obtain ⟨rfl, ht⟩ := h; exact hf v t ht
  | raised t =>
    obtain rfl | hcut := h
    · exact .inl rfl
    · exact .inr hcut
  | stop x => cases h; rfl
  | refuse x => cases h; rfl

theorem Res.Follows.ite {α : Type} {c : Prop} [Decidable c] {a b a' b' : Res α} (ha : a.Follows m n a')
    (hb : b.Follows m n b') : Res.Follows m n (if c then a else b) (if c then a' else b') := by
  split
  · exact ha
  · exact hb

theorem StepFollows.ite {c : Prop} [Decidable c] {a b a' b' : Host.Outcome State Fault Refusal}
    (ha : StepFollows m n a a') (hb : StepFollows m n b b') :
    StepFollows m n (if c then a else b) (if c then a' else b') := by
  split
  · exact ha
  · exact hb

/-! Reads. -/

/-- FETCH alone reads the source: within SRC the byte is the same, and at its end the other source may go on (40_bitreader.md
R103). -/
theorem fetchByte_follows {s : State} (hs : s.Agrees m n) : (fetchByte s).Follows m n (fetchByte (s.onSource m n)) := by
  by_cases hend : s.srcLen ≤ s.pos
  · have hraise : fetchByte s = .raised (s.raise .unexpectedEndOfStream) := if_pos hend
    rw [hraise]
    by_cases hend' : n ≤ s.pos
    · exact .inl (if_pos hend')
    · exact .inr ⟨rfl, lt_of_le_of_lt hend (Nat.lt_of_not_le hend')⟩
  · have hend' : ¬ n ≤ s.pos := fun h => hend (hs.srcLen_le.trans h)
    have hread := hs.read_eq s.pos le_rfl (Nat.lt_of_not_le hend)
    simp only [fetchByte, State.onSource, if_neg hend, if_neg hend', hread]
    cases s.src.read s.pos with
    | none => rfl
    | some b => exact ⟨rfl, hs.srcLen_le, fun a ha => hs.read_eq a (Nat.le_of_succ_le ha)⟩

theorem refill_follows {w k : Nat} {s : State} (hs : s.Agrees m n) :
    (refill w k s).Follows m n (refill w k (s.onSource m n)) := by
  induction k generalizing s with
  | zero => exact ⟨rfl, hs⟩
  | succ k ih =>
    rw [refill_succ, refill_succ]
    refine .ite ((fetchByte_follows hs).bind fun b t ht => ?_) ⟨rfl, hs⟩
    exact ih (s := { t with acc := t.acc ||| (b.setWidth 24 <<< t.cnt), cnt := t.cnt + 8 }) ⟨ht.srcLen_le, ht.read_eq⟩

theorem peekBits_follows {w : Nat} {s : State} (hs : s.Agrees m n) :
    (peekBits w s).Follows m n (peekBits w (s.onSource m n)) :=
  .ite rfl ((refill_follows hs).bind fun _ _ ht => ⟨rfl, ht⟩)

theorem readBits_follows {w : Nat} {s : State} (hs : s.Agrees m n) :
    (readBits w s).Follows m n (readBits w (s.onSource m n)) :=
  (peekBits_follows hs).bind fun _ _ ht => ⟨rfl, ht.srcLen_le, ht.read_eq⟩

theorem walkSym_follows {tb : CodeTable} {k : Nat} {s : State} (hs : s.Agrees m n) :
    (walkSym tb k s).Follows m n (walkSym tb k (s.onSource m n)) := by
  induction k generalizing s with
  | zero => exact .inl rfl
  | succ k ih =>
    rw [walkSym_succ, walkSym_succ]
    refine (readBits_follows hs).bind fun b t ht => ?_
    simp only [State.onSource]
    split
    · exact ⟨rfl, ht.srcLen_le, ht.read_eq⟩
    · exact .ite (ih (s := { t with wlen := t.wlen + 1, wval := t.wval <<< 1 ||| b }) ⟨ht.srcLen_le, ht.read_eq⟩) (.inl rfl)

theorem decodeSym_follows {tb : CodeTable} {s : State} (hs : s.Agrees m n) :
    (decodeSym tb s).Follows m n (decodeSym tb (s.onSource m n)) :=
  walkSym_follows (s := { s with wlen := 0, wval := 0 }) ⟨hs.srcLen_le, hs.read_eq⟩

theorem answer_follows (o : Option Instr) {s : State} (hs : s.Agrees m n) :
    (answer o s).Follows m n (answer o (s.onSource m n)) := by
  cases o with
  | none => rfl
  | some i => exact ⟨rfl, hs⟩

theorem fetchElement_follows {s : State} (hs : s.Agrees m n) :
    (fetchElement s).Follows m n (fetchElement (s.onSource m n)) := by
  have hphase : (s.onSource m n).phase = s.phase := rfl
  unfold fetchElement
  rw [hphase]
  split
  · exact (readBits_follows hs).bind fun _ _ ht => (readBits_follows ht).bind fun _ _ hu => ⟨rfl, hu⟩
  · exact (readBits_follows hs).bind fun _ _ ht => (readBits_follows ht).bind fun _ _ hu =>
      (readBits_follows hu).bind fun _ _ hv => ⟨rfl, hv⟩
  · exact (readBits_follows hs).bind fun _ _ ht => ⟨rfl, ht⟩
  · exact (decodeSym_follows hs).bind fun _ _ ht =>
      .ite (.inl rfl) ((readBits_follows ht).bind fun _ _ hu => answer_follows _ hu)
  · exact (decodeSym_follows hs).bind fun _ _ ht => (readBits_follows ht).bind fun _ _ hu => answer_follows _ hu
  all_goals rfl

theorem fetchDist_follows {s : State} (hs : s.Agrees m n) : (fetchDist s).Follows m n (fetchDist (s.onSource m n)) :=
  (decodeSym_follows hs).bind fun _ _ ht => (readBits_follows ht).bind fun _ _ hu => answer_follows _ hu

/-! Meanings and builds, which do not look at the source. -/

theorem copyLoop_follows {base l k : Nat} {s : State} (hs : s.Agrees m n) :
    (copyLoop base l k s).Follows m n (copyLoop base l k (s.onSource m n)) := by
  induction l generalizing k s with
  | zero => exact ⟨rfl, hs⟩
  | succ l ih =>
    have hout : (s.onSource m n).out = s.out := rfl
    rw [copyLoop_succ, copyLoop_succ, hout]
    split
    · rfl
    · exact ih ⟨hs.srcLen_le, hs.read_eq⟩

theorem build_follows (lens : List Nat) {s : State} (hs : s.Agrees m n) :
    (build lens s).Follows m n (build lens (s.onSource m n)) := by
  refine .ite (.inl rfl) ?_
  cases canonicalCodes lens with
  | error c => exact .inl rfl
  | ok r => exact ⟨rfl, hs.srcLen_le, hs.read_eq⟩

theorem clRun_follows (rep : Nat) (v : BitVec 4) (s : State) :
    StepFollows m n (clRun rep v s) (clRun rep v (s.onSource m n)) := by
  simp only [clRun, clSymEnd_eq]
  exact .ite (.inl rfl) (.inl rfl)

theorem exec_follows (i : Instr) {s : State} (hs : s.Agrees m n) :
    StepFollows m n (exec i s) (exec i (s.onSource m n)) := by
  cases exec_meaning i with
  | blockHeader f b hp hi => rw [hi, hi]; exact .ite (.inl rfl) (.inl rfl)
  | counts l d c hp hi => rw [hi, hi]; exact .inl rfl
  | clLength v hp hi =>
    have hcli : (s.onSource m n).cli = s.cli := rfl
    rw [hi, hi, execCllen, execCllen, hcli]
    cases clOrder[s.cli]? with
    | none => rfl
    | some slot => exact .inl rfl
  | codeLength v hp hi =>
    simp only [hi, clLiteral, clSymEnd_eq]
    exact .ite (.inl rfl) rfl
  | repeatLength x hp hi => rw [hi, hi]; exact .ite (.inl rfl) (clRun_follows _ _ { s with sym := 16, extra := x.toNat })
  | zeroRun sym x rep hp hi => rw [hi, hi]; exact clRun_follows _ _ { s with sym := sym, extra := x }
  | literal b hp hi => rw [hi, hi]; exact .ite (.inl rfl) (.inl rfl)
  | endOfBlock hi => subst hi; exact .ite (.inl rfl) (.inl rfl)
  | length l x hp hi => rw [hi, hi]; exact .inl rfl
  | reservedLl l hp hi => rw [hi, hi]; exact .inl rfl
  | distance d x hp hi =>
    rw [hi, hi]
    refine .ite (.inl rfl) (.ite (.inl rfl) (Res.Follows.finish ?_ fun _ _ _ => .inl rfl))
    exact copyLoop_follows (s := { s with dsym := d, extra := x, distance := matchDistance d x })
      ⟨hs.srcLen_le, hs.read_eq⟩
  | reservedDist d hp hi => rw [hi, hi]; exact .inl rfl

/-! Steps and runs. -/

theorem distanceStep_follows {s : State} (hs : s.Agrees m n) :
    StepFollows m n (distanceStep s) (distanceStep (s.onSource m n)) :=
  (fetchDist_follows hs).finish fun j _ ht => exec_follows j ht

theorem elementStep_follows {s : State} (hs : s.Agrees m n) :
    StepFollows m n (elementStep s) (elementStep (s.onSource m n)) := by
  refine (fetchElement_follows hs).finish fun i t ht => ?_
  by_cases hlen : i.isLength = true
  · obtain ⟨-, l, x, hi⟩ := exec_of_isLength hlen
    simp only [hi, lengthHalf, hlen, if_true]
    exact distanceStep_follows (s := { t with sym := l, extra := x, length := matchLength l x })
      ⟨ht.srcLen_le, ht.read_eq⟩
  · have hexec := exec_follows i ht
    generalize exec i t = o, exec i (t.onSource m n) = o' at hexec ⊢
    simp only [hlen]
    cases o with
    | next u =>
      obtain rfl | hcut := hexec
      · exact .inl rfl
      · exact .inr hcut
    | fault x | refused x => cases hexec; rfl

theorem step_follows {s : State} (hquiet : s.hostCmd = none) (hs : s.Agrees m n) :
    StepFollows m n (step s) (step (s.onSource m n)) := by
  have hquiet' : (s.onSource m n).hostCmd = none := hquiet
  simp only [step, machineStep, hquiet, hquiet']
  refine .ite ?_ rfl
  have hphase : (s.onSource m n).phase = s.phase := rfl
  rw [hphase]
  cases s.phase with
  | buildCl => exact (build_follows _ hs).finish fun _ _ _ => .inl rfl
  | buildLd =>
    exact (build_follows _ hs).finish fun ll t ht =>
      (build_follows _ (s := { t with llCode := storeCodes t.llCode ll }) ⟨ht.srcLen_le, ht.read_eq⟩).finish
        fun _ _ _ => .inl rfl
  | blockHdr | dynCounts | clLens | clSyms | symbols => exact elementStep_follows hs
  | idle | done | fault => rfl

end Follows

theorem observeRun_succ_of_next {s t : State} (h : step s = .next t) (k : Nat) :
    observeRun (k + 1) s = observeRun k t := by
  simp only [observeRun, run_succ_of_step h]

theorem observeRun_succ_of_stop {s : State} (h : ∀ t, step s ≠ .next t) (k : Nat) : observeRun (k + 1) s = none := by
  have hcore : core.step s = step s := rfl
  simp only [observeRun, Host.Core.run, hcore]
  cases hstep : step s with
  | next t => exact absurd hstep (h t)
  | fault x | refused x => rfl

/-- A session that failed is not DONE later: no step leaves FAULT (60_exceptions.md R215). -/
theorem observeRun_of_fault_ne_done {s : State} (hquiet : s.hostCmd = none) (hfault : s.status = .fault) (k : Nat)
    (out : List Byte) (e : Nat) : observeRun k s ≠ some (.done out e) := by
  cases k with
  | zero => simp [observeRun, Host.Core.run, observe, hfault]
  | succ k =>
    have hstop : step s = .fault .noStepEnabled := by simp [step, machineStep, sequencerStep, hquiet, hfault]
    simp [observeRun_succ_of_stop, hstop]

/-- The host sees the same on an agreeing source, where the two are of one length or the session ends DONE. -/
theorem observeRun_onSource {m : Memory} {n k : Nat} {s : State} (hquiet : s.hostCmd = none) (hs : s.Agrees m n)
    (h : s.srcLen = n ∨ ∃ out e, observeRun k s = some (.done out e)) :
    observeRun k (s.onSource m n) = observeRun k s := by
  induction k generalizing s with
  | zero => rfl
  | succ k ih =>
    have hfollows := step_follows hquiet hs
    cases hstep : step s with
    | fault x | refused x =>
      simp only [hstep, StepFollows] at hfollows
      rw [observeRun_succ_of_stop (by simp [hfollows]), observeRun_succ_of_stop (by simp [hstep])]
    | next t =>
      rw [hstep] at hfollows
      rw [observeRun_succ_of_next hstep] at h ⊢
      have hgrows := step_grows hquiet hstep
      have hquiet' := hgrows.hostCmd_eq.trans hquiet
      obtain hnext | ⟨hfault, hshort⟩ := hfollows
      · rw [observeRun_succ_of_next hnext]
        exact ih hquiet' (hgrows.agrees hs) (h.imp_left hgrows.srcLen_eq.trans)
      · obtain hlen | ⟨out, e, hdone⟩ := h
        · exact absurd (hgrows.srcLen_eq.trans hlen) hshort.ne
        · exact absurd hdone (observeRun_of_fault_ne_done hquiet' hfault k out e)

/-- A session runs from its accepted START (44_stream_control.md R190). -/
theorem observeRun_askStart (s : State) (src : List Byte) (p k : Nat) (cap : Option Nat) :
    observeRun (k + 1) (s.askStart src p cap) =
      if s.status ≠ .busy ∧ p ≤ src.length then observeRun k (sessionStart src p cap s) else none := by
  have hstep : step (s.askStart src p cap) =
      if s.status = .busy then .refused .startWhileBusy
      else if src.length < p then .refused .startBeyondSource
      else .next (sessionStart src p cap s) := rfl
  by_cases haccepted : s.status ≠ .busy ∧ p ≤ src.length
  · obtain ⟨hidle, hp⟩ := haccepted
    rw [if_neg hidle, if_neg (Nat.not_lt.2 hp)] at hstep
    rw [observeRun_succ_of_next hstep, if_pos ⟨hidle, hp⟩]
  · rw [if_neg haccepted, observeRun_succ_of_stop]
    intro t ht
    rw [hstep] at ht
    split_ifs at ht with hbusy hp
    exact haccepted ⟨hbusy, Nat.le_of_not_lt hp⟩

/-- Sessions from one state differ in their source alone. -/
theorem sessionStart_onSource (src src' : List Byte) (p : Nat) (cap : Option Nat) (s : State) :
    (sessionStart src p cap s).onSource (Memory.ofBytes src') src'.length = sessionStart src' p cap s := rfl

/-- Settles O56: a START puts `pos` at `start_pos`, from where the two sources agree. -/
theorem bytesBeforeStartAreNeverRead : Obligations.BytesBeforeStartAreNeverRead := by
  intro s src src' p k cap hlen hbytes
  cases k with
  | zero => rfl
  | succ k =>
    have hagrees : (sessionStart src p cap s).Agrees (Memory.ofBytes src') src'.length :=
      ⟨hlen.le, fun a ha _ => by simpa using (hbytes a ha).symm⟩
    have hsame := observeRun_onSource (k := k) rfl hagrees (.inl hlen)
    rw [observeRun_askStart, observeRun_askStart, ← hlen, ← hsame, sessionStart_onSource]

/-- Settles O57: a session that ends DONE never met the end of its source, so the longer source answers every read the same. -/
theorem bytesAfterTheEndAreNeverRead : Obligations.BytesAfterTheEndAreNeverRead := by
  intro s src tail out p k e cap hdone
  rw [observeRun_askStart] at hdone
  split at hdone
  case isFalse => cases hdone
  case isTrue haccepted =>
    obtain ⟨hidle, hp⟩ := haccepted
    have hlen : src.length ≤ (src ++ tail).length := by simp
    have hagrees : (sessionStart src p cap s).Agrees (Memory.ofBytes (src ++ tail)) (src ++ tail).length :=
      ⟨hlen, fun a _ ha => by simpa using List.getElem?_append_left ha⟩
    have hsame := observeRun_onSource (k := k) rfl hagrees (.inr ⟨out, e, hdone⟩)
    rw [observeRun_askStart, if_pos ⟨hidle, hp.trans hlen⟩, ← sessionStart_onSource src, hsame, hdone]

end Sys2Proof.Machine

namespace Sys2Proof.Machine

/-! # Decoding what was encoded (30_encoding.md)

`State.Presents s bits` says that `bits` stand at the bit position of `s`. Each reader has one rule on it: READBITS takes an integer
field (`readBits_field`), DECODE_SYM a codeword (`decodeSym_codeword`), and each leaves `s.advance` by the bits it took, where what
follows is presented again. An element is read by these rules in the order of its layout. -/

/-! ## The state after a read is determined by its bit position -/

/-- Below the end of the source FETCH answers the byte at `pos` (40_bitreader.md R103). -/
theorem fetchByte_of_lt {s : State} (hsrc : s.src.dense s.srcLen = true) (hpos : s.pos < s.srcLen) :
    ∃ b, fetchByte s = .ok b { s with pos := s.pos + 1 } := by
  obtain ⟨b, hb⟩ := Option.isSome_iff_exists.1 ((Memory.dense_read s.src s.srcLen s.pos hsrc).2 hpos)
  exact ⟨b, by simp [fetchByte, Nat.not_le.2 hpos, hb]⟩

/-- A refill succeeds where the source holds the bits it is asked for. -/
theorem refill_of_available {n k : Nat} {s : State} (hs : s.Readable) (havail : s.bitpos + n ≤ 8 * s.srcLen) :
    ∃ t, refill n k s = .ok () t := by
  induction k generalizing s with
  | zero => exact ⟨s, rfl⟩
  | succ k ih =>
    rw [refill_succ]
    split
    · next hlt =>
      have hcnt := hs.cnt_le
      have hpos : s.pos < s.srcLen := by simp only [State.bitpos] at havail; omega
      obtain ⟨b, hb⟩ := fetchByte_of_lt hs.src_dense hpos
      rw [hb, Res.bind_ok]
      refine ih ⟨?_, hpos, hs.src_dense⟩ ?_
      · show s.cnt + 8 ≤ 8 * (s.pos + 1)
        omega
      · show 8 * (s.pos + 1) - (s.cnt + 8) + n ≤ 8 * s.srcLen
        simp only [State.bitpos] at havail
        omega
    · exact ⟨s, rfl⟩

theorem State.CursorOk.readable {s : State} (h : s.CursorOk) : s.Readable :=
  ⟨by have := h.cnt_fetched; omega, h.pos_le, h.src_dense⟩

/-- At most seven buffered bits are the last ones of the byte before `pos`, so the whole BitCursor follows from the bit position
(10_state.md R23(d), 20_memory.md R58). -/
theorem State.CursorOk.eq_advance {s t : State} {n : Nat} (h : t.CursorOk) (hcnt : t.cnt ≤ 7) (hst : CursorOnly s t)
    (hbitpos : t.bitpos = s.bitpos + n) : t = s.advance n := by
  obtain ⟨acc, cnt, pos, rfl⟩ := hst
  have hfetched := h.readable.cnt_le
  simp only [State.bitpos] at hcnt hfetched hbitpos
  have hpos : (s.bitpos + n + 7) / 8 = pos := by simp only [State.bitpos]; omega
  have hcnt' : 8 * pos - (s.bitpos + n) = cnt := by simp only [State.bitpos]; omega
  have hacc : acc = BitVec.ofNat 24 (((s.src.read (pos - 1)).getD 0).toNat >>> (8 - cnt)) := by
    apply BitVec.eq_of_getLsbD_eq
    intro i hi
    rw [BitVec.getLsbD_ofNat, Nat.testBit_shiftRight, BitVec.testBit_toNat, decide_eq_true hi, Bool.true_and]
    by_cases hlt : i < cnt
    · refine (h.acc_bits i hlt).trans ?_
      have hindex : 8 * pos - cnt + i = 8 * (pos - 1) + (8 - cnt + i) := by omega
      have hdiv : (8 * (pos - 1) + (8 - cnt + i)) / 8 = pos - 1 := by omega
      have hmod : (8 * (pos - 1) + (8 - cnt + i)) % 8 = 8 - cnt + i := by omega
      simp only [State.bitpos, State.streamBit, hindex, hdiv, hmod]
    · have hclear : acc.getLsbD i = false :=
        Nat.testBit_lt_two_pow (lt_of_lt_of_le h.acc_lt (Nat.pow_le_pow_right (by omega) (by simpa using hlt)))
      rw [hclear, BitVec.getLsbD_of_ge _ _ (by omega)]
  simp only [State.advance, hpos, hcnt', ← hacc]

/-! ## Fields -/

/-- `bits` are the unread bits of a sound BitCursor that buffers no whole byte. -/
structure State.Presents (s : State) (bits : List Bool) : Prop where
  cursor : s.CursorOk
  cnt_le : s.cnt ≤ 7
  unread_eq : s.unread = bits

theorem State.Presents.available {s : State} {bs rest : List Bool} (h : s.Presents (bs ++ rest)) :
    s.bitpos + bs.length ≤ 8 * s.srcLen := by
  have hlen := s.unread_length
  have hbound : s.bitpos ≤ 8 * s.srcLen := by have := h.cursor.pos_le; simp only [State.bitpos]; omega
  rw [h.unread_eq, List.length_append] at hlen
  omega

theorem State.Presents.streamBit {s : State} {bs rest : List Bool} (h : s.Presents (bs ++ rest)) {i : Nat}
    (hi : i < bs.length) : s.streamBit (s.bitpos + i) = bs[i] := by
  have havail := h.available
  have hget : s.unread[i]? = some bs[i] := by rw [h.unread_eq, List.getElem?_append_left hi, List.getElem?_eq_getElem hi]
  have hrange : i < 8 * s.srcLen - s.bitpos := by omega
  simpa [State.unread, List.getElem?_range hrange] using hget

@[simp] theorem fieldBits_length (w v : Nat) : (fieldBits w v).length = w := by simp [fieldBits]

/-- READBITS takes an integer field (40_bitreader.md R107, 20_memory.md R55(a)). -/
theorem readBits_field {w v : Nat} {s : State} {rest : List Bool} (hw : w ≤ 16) (hv : v < 2 ^ w)
    (h : s.Presents (fieldBits w v ++ rest)) :
    readBits w s = .ok v (s.advance w) ∧ (s.advance w).Presents rest := by
  have havail := h.available
  rw [fieldBits_length] at havail
  obtain ⟨t, ht⟩ := refill_of_available (k := w) h.cursor.readable havail
  have hgoes := refill_goes (n := w) (k := w) h.cursor.readable (by omega)
  have hscans := refill_scans (k := w) (.refl (s := s)) hw
  rw [ht] at hgoes hscans
  obtain ⟨hframe, hread, hbitpos, hbuffered⟩ := hgoes
  obtain ⟨hscan, -, -, hcnt⟩ := hscans
  have htok := hscan.cursorOk h.cursor
  have hcursor := htok.consume hbuffered
  have hcnt7 : t.cnt - w ≤ 7 := by have := h.cnt_le; omega
  have hadv : { t with acc := t.acc >>> w, cnt := t.cnt - w } = s.advance w := by
    refine hcursor.eq_advance hcnt7 (hframe.trans ⟨_, _, _, rfl⟩) ?_
    have := hread.cnt_le
    rw [← hbitpos]
    simp only [State.bitpos]
    omega
  have hvalue : t.acc.toNat % 2 ^ w = v := by
    apply Nat.eq_of_testBit_eq
    intro i
    rw [Nat.testBit_mod_two_pow, BitVec.testBit_toNat]
    by_cases hi : i < w
    · have hstream := h.streamBit (i := i) (by simpa using hi)
      have hbit := htok.acc_bits i (by omega)
      obtain ⟨_, _, _, rfl⟩ := hframe
      rw [hbitpos] at hbit
      simpa [hi] using hbit.trans (hstream.trans (by simp [fieldBits]))
    · simp [hi, Nat.testBit_lt_two_pow (lt_of_lt_of_le hv (Nat.pow_le_pow_right (by omega) (Nat.not_lt.1 hi)))]
  refine ⟨?_, hadv ▸ hcursor, hadv ▸ hcnt7, ?_⟩
  · rw [readBits, peekBits_eq w s hw, ht, Res.bind_ok, Res.bind_ok, hvalue, hadv]
  · rw [State.advance_unread, h.unread_eq, List.drop_left' (by simp)]

/-! ## Codewords under a sound table -/

theorem clashes_comm (a b : Nat × Nat) : clashes a b = clashes b a := by
  unfold clashes
  rcases Nat.lt_trichotomy a.1 b.1 with hlt | heq | hgt
  · simp [hlt.le, Nat.not_le.2 hlt, Bool.and_left_comm]
  · simp [heq, eq_comm]
  · simp [hgt.le, Nat.not_le.2 hgt, Bool.and_left_comm]

/-- Two entries of a sound table that clash are one. -/
theorem CodeTable.sound_eq_of_clashes {tb : CodeTable} {x y : Nat} {a b : Nat × Nat} (htb : tb.sound = true)
    (hx : tb[x]? = some a) (hy : tb[y]? = some b) (hclash : clashes a b = true) : x = y := by
  obtain ⟨-, hpair⟩ := Bool.and_eq_true_iff.1 htb
  have hpair := List.pairwise_iff_getElem.1 (of_decide_eq_true hpair)
  obtain ⟨hxl, rfl⟩ := List.getElem?_eq_some_iff.1 hx
  obtain ⟨hyl, rfl⟩ := List.getElem?_eq_some_iff.1 hy
  rcases Nat.lt_trichotomy x y with hlt | heq | hgt
  · simp [hpair x y hxl hyl hlt] at hclash
  · exact heq
  · rw [clashes_comm] at hclash
    simp [hpair y x hyl hxl hgt] at hclash

theorem CodeTable.sound_bounds {tb : CodeTable} {x l c : Nat} (htb : tb.sound = true) (hx : tb[x]? = some (l, c))
    (hl : l ≠ 0) : l ≤ 15 ∧ c < 2 ^ l := by
  obtain ⟨hall, -⟩ := Bool.and_eq_true_iff.1 htb
  obtain ⟨hlen, hcode⟩ := of_decide_eq_true (List.all_eq_true.1 hall _ (List.mem_of_getElem? hx))
  exact ⟨hlen, hcode hl⟩

section Codeword

variable {tb : CodeTable} {x l c : Nat} (htb : tb.sound = true) (hx : tb[x]? = some (l, c))
include htb hx

/-- The first characters of a codeword of a sound table are a codeword only where they are all of it
(41_huffman_builder.md R127(c)). -/
theorem CodeTable.eq_of_codeword_start {y m : Nat} (hm : m ≠ 0) (hml : m ≤ l)
    (hy : tb[y]? = some (m, c >>> (l - m))) : y = x :=
  have hl : l ≠ 0 := by omega
  CodeTable.sound_eq_of_clashes htb hy hx (by simp [clashes, hm, hml, hl])

theorem CodeTable.symbolOf_codeword (hl : l ≠ 0) : tb.symbolOf l c = some x := by
  obtain ⟨hlt, hget⟩ := List.getElem?_eq_some_iff.1 hx
  refine List.findIdx?_eq_some_iff_getElem.2 ⟨hlt, by simp [hget], fun y hy hmatch => ?_⟩
  obtain ⟨hlen, hcode⟩ := of_decide_eq_true hmatch
  have hyx := CodeTable.eq_of_codeword_start htb hx (y := y) hl le_rfl
    (List.getElem?_eq_some_iff.2 ⟨by omega, Prod.ext hlen (by simpa using hcode)⟩)
  omega

theorem CodeTable.symbolOf_start {m : Nat} (hm : m ≠ 0) (hml : m < l) : tb.symbolOf m (c >>> (l - m)) = none := by
  refine List.findIdx?_eq_none_iff.2 fun e he => decide_eq_false fun ⟨hlen, hcode⟩ => ?_
  obtain ⟨y, hy⟩ := List.mem_iff_getElem?.1 he
  obtain rfl := CodeTable.eq_of_codeword_start htb hx hm hml.le (hy.trans (congrArg some (Prod.ext hlen hcode)))
  obtain rfl := Option.some.inj (hx.symm.trans hy)
  exact hml.ne' hlen

omit htb in
theorem CodeTable.pending_start {m : Nat} (hml : m < l) : tb.pending m (c >>> (l - m)) = true :=
  List.any_eq_true.2 ⟨(l, c), List.mem_of_getElem? hx, by simp [hml]⟩

end Codeword

@[simp] theorem codewordBits_length (len code : Nat) : (codewordBits len code).length = len := by simp [codewordBits]

/-- The leftmost character of a codeword is its highest bit (20_memory.md R55(b)). -/
theorem codewordBits_succ (n c : Nat) : codewordBits (n + 1) c = fieldBits 1 (c.testBit n).toNat ++ codewordBits n c := by
  have hhead : fieldBits 1 (c.testBit n).toNat = [c.testBit n] := by cases c.testBit n <;> rfl
  rw [hhead]
  simp only [codewordBits, List.range_succ_eq_map, List.map_cons, List.map_map, List.singleton_append]
  congr 1
  refine List.map_congr_left fun j _ => congrArg c.testBit ?_
  omega

/-- The walk grows by the next character of the codeword (41_huffman_builder.md R130). -/
theorem shiftRight_succ_shiftLeft_or_testBit (n c : Nat) : (c >>> (n + 1)) <<< 1 ||| (c.testBit n).toNat = c >>> n := by
  have hbit : (c.testBit n).toNat < 2 ^ 1 := Bool.toNat_lt _
  rw [← Nat.shiftLeft_add_eq_or_of_lt hbit, Nat.toNat_testBit, Nat.shiftRight_succ, Nat.shiftRight_eq_div_pow,
    Nat.shiftLeft_eq]
  omega

/-- A walk that stands inside the codeword of `x`, with `n + 1` characters to come, resolves `x` at the last of them. -/
theorem walkSym_codeword {tb : CodeTable} {x l c n k : Nat} {s : State} {rest : List Bool} (htb : tb.sound = true)
    (hx : tb[x]? = some (l, c)) (hk : n < k) (hwlen : s.wlen + (n + 1) = l) (hwval : s.wval = c >>> (n + 1))
    (h : s.Presents (codewordBits (n + 1) c ++ rest)) :
    walkSym tb k s = .ok x (State.advance { s with wlen := 0, wval := 0 } (n + 1)) := by
  induction k generalizing n s with
  | zero => omega
  | succ k ih =>
    rw [codewordBits_succ, List.append_assoc] at h
    obtain ⟨hread, hnext⟩ := readBits_field (by omega) (Bool.toNat_lt _) h
    rw [walkSym_succ, hread, Res.bind_ok, State.advance_wlen, State.advance_wval, hwval,
      shiftRight_succ_shiftLeft_or_testBit]
    cases n with
    | zero =>
      rw [hwlen, Nat.shiftRight_zero, CodeTable.symbolOf_codeword htb hx (by omega)]
      rfl
    | succ n =>
      have hleft : n + 1 = l - (s.wlen + 1) := by omega
      rw [hleft, CodeTable.symbolOf_start htb hx (by omega) (by omega), CodeTable.pending_start hx (by omega), ← hleft]
      have hwalk := ih (n := n) (s := { s.advance 1 with wlen := s.wlen + 1, wval := c >>> (n + 1) }) (by omega)
        (by simp only; omega) rfl ⟨hnext.cursor.congr rfl, hnext.cnt_le, hnext.unread_eq⟩
      have hadv := State.advance_advance { s with wlen := 0, wval := 0 } 1 (n + 1)
      rw [Nat.add_comm 1 (n + 1)] at hadv
      exact hwalk.trans (congrArg (Res.ok x) hadv)

theorem codeword_eq_some {tb : CodeTable} {x : Nat} {bs : List Bool} (h : codeword tb x = some bs) :
    ∃ l c, tb[x]? = some (l, c) ∧ l ≠ 0 ∧ bs = codewordBits l c := by
  unfold codeword at h
  split at h
  · cases h
  · next e he =>
    split at h
    · cases h
    · next hl => cases h; exact ⟨e.1, e.2, he, hl, rfl⟩

/-- DECODE_SYM takes a codeword (41_huffman_builder.md R130). -/
theorem decodeSym_codeword {tb : CodeTable} {x : Nat} {s : State} {bs rest : List Bool} (htb : tb.sound = true)
    (hcode : codeword tb x = some bs) (h : s.Presents (bs ++ rest)) :
    decodeSym tb s = .ok x (State.advance { s with wlen := 0, wval := 0 } bs.length) ∧
      (State.advance { s with wlen := 0, wval := 0 } bs.length).Presents rest := by
  obtain ⟨l, c, hx, hl, rfl⟩ := codeword_eq_some hcode
  obtain ⟨hl15, hfits⟩ := CodeTable.sound_bounds htb hx hl
  obtain ⟨n, rfl⟩ := Nat.exists_eq_succ_of_ne_zero hl
  have hroot : 0 = c >>> (n + 1) := by rw [Nat.shiftRight_eq_div_pow, Nat.div_eq_of_lt hfits]
  have hdec : decodeSym tb s = .ok x (State.advance { s with wlen := 0, wval := 0 } (n + 1)) :=
    walkSym_codeword (s := { s with wlen := 0, wval := 0 }) htb hx hl15 (by simp) hroot
      ⟨h.cursor.congr rfl, h.cnt_le, h.unread_eq⟩
  obtain ⟨hscan, hrest⟩ := (decodeSym_scans (tb := tb) (.refl (s := s))).of_ok hdec
  rw [codewordBits_length]
  refine ⟨hdec, hscan.cursorOk h.cursor, (hrest h.cnt_le).cnt_le, ?_⟩
  rw [State.advance_unread, show State.unread { s with wlen := 0, wval := 0 } = s.unread from rfl, h.unread_eq,
    List.drop_left' (by simp)]

/-! ## Elements -/

theorem State.AtRest.walk_eq {s : State} (h : s.AtRest) : { s with wlen := 0, wval := 0 } = s := by
  obtain ⟨-, hlen, hval⟩ := h
  cases s
  cases hlen
  cases hval
  rfl

theorem fetchBlk_fields {f t : Nat} {s : State} {rest : List Bool} (hf : f < 2) (ht : t < 4)
    (h : s.Presents (fieldBits 1 f ++ (fieldBits 2 t ++ rest))) :
    fetchBlk s = .ok (blkElement (BitVec.ofNat 1 f) (BitVec.ofNat 2 t)) (s.advance 3) := by
  obtain ⟨hread, h⟩ := readBits_field (by omega) hf h
  obtain ⟨hread', -⟩ := readBits_field (by omega) ht h
  simp only [fetchBlk, hread, hread', Res.bind_ok, State.advance_advance]

theorem fetchHdr_fields {l d c : Nat} {s : State} {rest : List Bool} (hl : l < 32) (hd : d < 32) (hc : c < 16)
    (h : s.Presents (fieldBits 5 l ++ (fieldBits 5 d ++ (fieldBits 4 c ++ rest)))) :
    fetchHdr s = .ok (.hdr (BitVec.ofNat 5 l) (BitVec.ofNat 5 d) (BitVec.ofNat 4 c)) (s.advance 14) := by
  obtain ⟨hread, h⟩ := readBits_field (by omega) hl h
  obtain ⟨hread', h⟩ := readBits_field (by omega) hd h
  obtain ⟨hread'', -⟩ := readBits_field (by omega) hc h
  simp only [fetchHdr, hread, hread', hread'', Res.bind_ok]
  rw [State.advance_advance, State.advance_advance]

theorem fetchCllen_field {v : Nat} {s : State} {rest : List Bool} (hv : v < 8)
    (h : s.Presents (fieldBits 3 v ++ rest)) : fetchCllen s = .ok (.cllen (BitVec.ofNat 3 v)) (s.advance 3) := by
  obtain ⟨hread, -⟩ := readBits_field (by omega) hv h
  simp only [fetchCllen, hread, Res.bind_ok]

section Coded

variable {tb : CodeTable} {x w e : Nat} {s : State} {bs rest : List Bool} {i : Instr}

/-- The two reads of every element that begins with a codeword: its symbol, then its extra bits (30_encoding.md R71). -/
theorem coded_reads (htb : tb.sound = true) (hcode : codeword tb x = some bs) (hw : w ≤ 16) (he : e < 2 ^ w)
    (hrest : s.AtRest) (h : s.Presents (bs ++ (fieldBits w e ++ rest))) :
    decodeSym tb s = .ok x (s.advance bs.length) ∧
      readBits w (s.advance bs.length) = .ok e (s.advance (bs.length + w)) := by
  obtain ⟨hsym, h⟩ := decodeSym_codeword htb hcode h
  rw [hrest.walk_eq] at hsym h
  exact ⟨hsym, by rw [(readBits_field hw he h).1, State.advance_advance]⟩

variable (hrest : s.AtRest) (h : s.Presents (bs ++ (fieldBits w e ++ rest))) (he : e < 2 ^ w)
include hrest h he

theorem fetchCl_coded (htb : s.clTable.sound = true) (hcode : codeword s.clTable x = some bs) (hw : w = clExtraWidth x)
    (hi : clElement x e = some i) (hrepeat : ¬ (x = 16 ∧ s.idx = 0)) :
    fetchCl s = .ok i (s.advance (bs.length + w)) := by
  obtain ⟨hsym, hread⟩ := coded_reads htb hcode (hw ▸ clExtraWidth_le x) he hrest h
  subst hw
  simp only [fetchCl, hsym, Res.bind_ok, State.advance_idx, if_neg hrepeat, hread, hi, answer]

theorem fetchLl_coded (htb : s.llTable.sound = true) (hcode : codeword s.llTable x = some bs) (hw : w = llExtraWidth x)
    (hi : llElement x e = some i) : fetchLl s = .ok i (s.advance (bs.length + w)) := by
  obtain ⟨hsym, hread⟩ := coded_reads htb hcode (hw ▸ llExtraWidth_le x) he hrest h
  subst hw
  simp only [fetchLl, hsym, Res.bind_ok, hread, hi, answer]

theorem fetchDist_coded (htb : s.dTable.sound = true) (hcode : codeword s.dTable x = some bs)
    (hw : w = distExtraWidth x) (hi : distElement x e = some i) : fetchDist s = .ok i (s.advance (bs.length + w)) := by
  obtain ⟨hsym, hread⟩ := coded_reads htb hcode (hw ▸ distExtraWidth_le x) he hrest h
  subst hw
  simp only [fetchDist, hsym, Res.bind_ok, hread, hi, answer]

end Coded

theorem encode_coded {s : State} {i : Instr} {a : Alphabet} {x w e : Nat} {bits : List Bool}
    (hi : i.layout = .coded a x w e) (h : encode s i = some bits) :
    ∃ bs, codeword (tableOf s a) x = some bs ∧ bits = bs ++ fieldBits w e := by
  simp only [encode, hi] at h
  split at h
  · cases h
  · next bs hbs => cases h; exact ⟨bs, hbs, rfl⟩

theorem encode_fields {s : State} {i : Instr} {fs : List (Nat × Nat)} {bits : List Bool} (hi : i.layout = .fields fs)
    (h : encode s i = some bits) : bits = fs.flatMap fun f => fieldBits f.1 f.2 := by
  simp only [encode, hi] at h
  cases h
  rfl

open Laws.Encoding in
/-- The decoder's map from fields and symbols to elements undoes every layout. -/
theorem statement_of_instr (i : Instr) : Statement i :=
  Instr.casesOn (motive := Statement) i blk blkBtype0 blkBtype1 blkBtype3 hdr cllen cl0 cl1 cl2 cl3 cl4 cl5 cl6 cl7 cl8 cl9
    cl10 cl11 cl12 cl13 cl14 cl15 cl16 cl17 cl18 lit eob len257 len258 len259 len260 len261 len262 len263 len264 len265
    len266 len267 len268 len269 len270 len271 len272 len273 len274 len275 len276 len277 len278 len279 len280 len281 len282
    len283 len284 len285 ll286 ll287 dist0 dist1 dist2 dist3 dist4 dist5 dist6 dist7 dist8 dist9 dist10 dist11 dist12
    dist13 dist14 dist15 dist16 dist17 dist18 dist19 dist20 dist21 dist22 dist23 dist24 dist25 dist26 dist27 dist28 dist29
    d30 d31

/-- The reader of an element under the hypotheses of `DecodeOfEncode`. -/
theorem fetch_of_encode {s : State} {i : Instr} {bits rest : List Bool} (hrest : s.AtRest) (hwf : i.wf = true)
    (hphase : i.phase = s.phase)
    (htables : ∀ a sym w e, i.layout = .coded a sym w e →
      (tableOf s a).sound = true ∧ ¬ (a = .cl ∧ sym = 16 ∧ s.idx = 0))
    (henc : encode s i = some bits) (h : s.Presents (bits ++ rest)) :
    (if i.isDistance then fetchDist s else fetchElement s) = .ok i (s.advance bits.length) := by
  have hstmt := statement_of_instr i
  unfold Laws.Encoding.Statement at hstmt
  split at hstmt
  case h_1 f t hlay =>
    obtain ⟨hf, ht, hi⟩ := hstmt hwf
    obtain rfl := encode_fields hlay henc
    simp only [Instr.phase, hlay] at hphase
    simpa [Instr.isDistance, hlay, fetchElement, ← hphase, hi] using fetchBlk_fields hf ht (by simpa using h)
  case h_2 l d c hlay =>
    obtain ⟨hl, hd, hc, hi⟩ := hstmt
    obtain rfl := encode_fields hlay henc
    simp only [Instr.phase, hlay] at hphase
    simpa [Instr.isDistance, hlay, fetchElement, ← hphase, hi] using fetchHdr_fields hl hd hc (by simpa using h)
  case h_3 v hlay =>
    obtain ⟨hv, hi⟩ := hstmt
    obtain rfl := encode_fields hlay henc
    simp only [Instr.phase, hlay] at hphase
    simpa [Instr.isDistance, hlay, fetchElement, ← hphase, hi] using fetchCllen_field hv (by simpa using h)
  case h_4 => exact hstmt.elim
  case h_5 x w e hlay =>
    obtain ⟨-, hw, he, hi⟩ := hstmt
    obtain ⟨bs, hcode, rfl⟩ := encode_coded hlay henc
    obtain ⟨htb, hrepeat⟩ := htables _ _ _ _ hlay
    rw [List.append_assoc] at h
    simp only [Instr.phase, hlay] at hphase
    simpa [Instr.isDistance, hlay, fetchElement, ← hphase] using
      fetchCl_coded hrest h he htb hcode hw hi (by simpa using hrepeat)
  case h_6 x w e hlay =>
    obtain ⟨-, hw, he, hi⟩ := hstmt
    obtain ⟨bs, hcode, rfl⟩ := encode_coded hlay henc
    obtain ⟨htb, -⟩ := htables _ _ _ _ hlay
    rw [List.append_assoc] at h
    simp only [Instr.phase, hlay] at hphase
    simpa [Instr.isDistance, hlay, fetchElement, ← hphase] using fetchLl_coded hrest h he htb hcode hw hi
  case h_7 x w e hlay =>
    obtain ⟨-, hw, he, hi⟩ := hstmt
    obtain ⟨bs, hcode, rfl⟩ := encode_coded hlay henc
    obtain ⟨htb, -⟩ := htables _ _ _ _ hlay
    rw [List.append_assoc] at h
    simpa [Instr.isDistance, hlay] using fetchDist_coded hrest h he htb hcode hw hi

/-- Settles O3: each read of the decoder takes the bits of its own part of the layout. -/
theorem decodeOfEncode : Obligations.DecodeOfEncode := by
  intro s i bits rest hcursor hcnt hwlen hwval hwf hphase htables henc hunread
  refine ⟨fetch_of_encode ⟨hcnt, hwlen, hwval⟩ hwf hphase htables henc ⟨hcursor, hcnt, hunread⟩, ?_⟩
  rw [State.advance_unread, hunread, List.drop_left]

end Sys2Proof.Machine

namespace Sys2Proof.Machine

/-! # The bit reader (40_bitreader.md)

`Refilled n s t` is the refill loop without its count of turns. Which peeks and reads answer is said once through it
(`peekBits_eq_ok`, `readBits_eq_ok`), and what two operations in a row do follows by induction on it. -/

/-! ## The moves of the refill loop and of a read (R101) -/

/-- `s` with one more byte fetched and OR-ed in at bit `cnt`. -/
def State.buffer (b : Byte) (s : State) : State :=
  { s with pos := s.pos + 1, acc := s.acc ||| (b.setWidth 24 <<< s.cnt), cnt := s.cnt + 8 }

/-- `s` with `n` buffered bits consumed. -/
def State.consume (n : Nat) (s : State) : State :=
  { s with acc := s.acc >>> n, cnt := s.cnt - n }

@[simp] theorem State.buffer_cnt (b : Byte) (s : State) : (s.buffer b).cnt = s.cnt + 8 := rfl
@[simp] theorem State.consume_cnt (n : Nat) (s : State) : (s.consume n).cnt = s.cnt - n := rfl

@[simp] theorem State.consume_zero (s : State) : s.consume 0 = s := by simp [State.consume]

theorem State.consume_consume (m n : Nat) (s : State) : (s.consume m).consume n = s.consume (m + n) := by
  simp [State.consume, BitVec.shiftRight_add, Nat.sub_sub]

/-- The fetched byte is no part of the bits before it, so the bit position stays (R102). -/
@[simp] theorem State.buffer_bitpos (b : Byte) (s : State) : (s.buffer b).bitpos = s.bitpos := by
  simp only [State.bitpos, State.buffer]
  omega

/-- The bits already buffered stay where they are. -/
theorem State.buffer_getLsbD {b : Byte} {s : State} {i : Nat} (hi : i < s.cnt) :
    (s.buffer b).acc.getLsbD i = s.acc.getLsbD i := by
  simp [State.buffer, hi]

/-- Below 16 buffered bits the accumulator has room for a whole byte, so it may as well be fetched after the consumption. -/
theorem State.buffer_consume {b : Byte} {n : Nat} {s : State} (hn : n ≤ s.cnt) (hcnt : s.cnt < 16) :
    (s.consume n).buffer b = (s.buffer b).consume n := by
  have hacc : s.acc >>> n ||| (b.setWidth 24 <<< (s.cnt - n)) = (s.acc ||| (b.setWidth 24 <<< s.cnt)) >>> n := by
    apply BitVec.eq_of_getLsbD_eq
    intro i hi
    have hshift : n + i < s.cnt ↔ i < s.cnt - n := by omega
    have hindex : n + i - s.cnt = i - (s.cnt - n) := by omega
    simp only [BitVec.getLsbD_or, BitVec.getLsbD_ushiftRight, BitVec.getLsbD_shiftLeft, BitVec.getLsbD_setWidth, hshift,
      hindex]
    by_cases hbyte : i - (s.cnt - n) < 8
    · have hroom : n + i < 24 := by omega
      have hroom' : i - (s.cnt - n) < 24 := by omega
      simp [hi, hroom, hroom']
    · simp [BitVec.getLsbD_of_ge b _ (Nat.not_lt.1 hbyte)]
  have hleft : s.cnt - n + 8 = s.cnt + 8 - n := by omega
  simp only [State.buffer, State.consume, hacc, hleft]

/-! ## The refill loop -/

/-- `t` is where the refill loop for `n` bits ends from `s` (R101). -/
inductive Refilled (n : Nat) : State → State → Prop
  | done {s : State} (hcnt : n ≤ s.cnt) : Refilled n s s
  | turn {s t : State} {b : Byte} (hcnt : s.cnt < n) (hpos : s.pos < s.srcLen) (hb : s.src.read s.pos = some b)
      (h : Refilled n (s.buffer b) t) : Refilled n s t

/-- FETCH answers where a byte is left and SRC lists it (R103). -/
theorem fetchByte_eq_ok {s t : State} {b : Byte} :
    fetchByte s = .ok b t ↔ s.pos < s.srcLen ∧ s.src.read s.pos = some b ∧ t = { s with pos := s.pos + 1 } := by
  refine ⟨fetchByte_ok, ?_⟩
  rintro ⟨hpos, hb, rfl⟩
  simp [fetchByte, Nat.not_le.2 hpos, hb]

/-- With enough turns the refill loop ends where `Refilled` says. -/
theorem refill_eq_ok {n k : Nat} {s t : State} (hk : n ≤ s.cnt + 8 * k) :
    refill n k s = .ok () t ↔ Refilled n s t := by
  induction k generalizing s with
  | zero =>
    have hcnt : n ≤ s.cnt := by omega
    constructor
    · rintro ⟨⟩
      exact .done hcnt
    · rintro (_ | ⟨hlt⟩)
      · rfl
      · omega
  | succ k ih =>
    rw [refill_succ]
    split
    case isTrue hlt =>
      have hnext (b : Byte) : refill n k (s.buffer b) = .ok () t ↔ Refilled n (s.buffer b) t :=
        ih (by simp only [State.buffer_cnt]; omega)
      constructor
      · intro h
        obtain ⟨b, u, hb, h⟩ := Res.bind_eq_ok.1 h
        obtain ⟨hpos, hread, rfl⟩ := fetchByte_ok hb
        exact .turn hlt hpos hread ((hnext b).1 h)
      · rintro (hcnt | ⟨-, hpos, hread, h⟩)
        · omega
        · exact Res.bind_eq_ok.2 ⟨_, _, fetchByte_eq_ok.2 ⟨hpos, hread, rfl⟩, (hnext _).2 h⟩
    case isFalse hge =>
      constructor
      · rintro ⟨⟩
        exact .done (Nat.not_lt.1 hge)
      · rintro (_ | ⟨hlt⟩)
        · rfl
        · exact absurd hlt hge

section Refilled
variable {n : Nat} {s t : State}

theorem Refilled.le_cnt (h : Refilled n s t) : n ≤ t.cnt := by
  induction h with
  | done hcnt => exact hcnt
  | turn _ _ _ _ ih => exact ih

theorem Refilled.bitpos_eq (h : Refilled n s t) : t.bitpos = s.bitpos := by
  induction h with
  | done _ => rfl
  | turn _ _ _ _ ih => rw [ih, State.buffer_bitpos]

/-- A refill keeps the bits that were buffered. -/
theorem Refilled.getLsbD_eq (h : Refilled n s t) {i : Nat} (hi : i < s.cnt) : t.acc.getLsbD i = s.acc.getLsbD i := by
  induction h with
  | done _ => rfl
  | turn _ _ _ _ ih => rw [ih (by simp only [State.buffer_cnt]; omega), State.buffer_getLsbD hi]

/-- A refill for fewer bits is the beginning of one for more. -/
theorem Refilled.trans {m : Nat} {u : State} (h : Refilled n s t) (hnm : n ≤ m) (h' : Refilled m t u) :
    Refilled m s u := by
  induction h with
  | done _ => exact h'
  | turn hcnt hpos hb _ ih => exact .turn (hcnt.trans_le hnm) hpos hb (ih h')

/-- A refill for `n` bits after `m` were consumed fetches what a refill for both before it does. -/
theorem Refilled.of_consume {m : Nat} (hm : m ≤ s.cnt) (hwidth : m + n ≤ 16) (h : Refilled n (s.consume m) t) :
    ∃ u, Refilled (m + n) s u ∧ t = u.consume m := by
  generalize hs : s.consume m = s' at h
  induction h generalizing s with
  | done hcnt =>
    subst hs
    rw [State.consume_cnt] at hcnt
    exact ⟨s, .done (by omega), rfl⟩
  | turn hcnt hpos hb _ ih =>
    subst hs
    rw [State.consume_cnt] at hcnt
    obtain ⟨u, hu, rfl⟩ := ih (by simp only [State.buffer_cnt]; omega) (State.buffer_consume hm (by omega)).symm
    exact ⟨u, .turn (by omega) hpos hb hu, rfl⟩

end Refilled

/-! ## The peeks and the reads that answer -/

/-- A peek answers the low bits after the refill (R102, R105). -/
theorem peekBits_eq_ok {n v : Nat} {s t : State} :
    peekBits n s = .ok v t ↔ n ≤ 16 ∧ Refilled n s t ∧ v = t.acc.toNat % 2 ^ n := by
  by_cases hn : n ≤ 16
  · rw [peekBits_eq n s hn, Res.bind_eq_ok]
    constructor
    · rintro ⟨⟨⟩, u, hu, h⟩
      cases h
      exact ⟨hn, (refill_eq_ok (by omega)).1 hu, rfl⟩
    · rintro ⟨-, ht, rfl⟩
      exact ⟨(), t, (refill_eq_ok (by omega)).2 ht, rfl⟩
  · exact ⟨fun h => absurd (peekBits_ok h).1 hn, fun h => absurd h.1 hn⟩

/-- A read answers what the peek does, and consumes it (R101). -/
theorem readBits_eq_ok {n v : Nat} {s t : State} :
    readBits n s = .ok v t ↔ ∃ u, peekBits n s = .ok v u ∧ t = u.consume n := by
  rw [readBits, Res.bind_eq_ok]
  constructor
  · rintro ⟨x, u, hu, h⟩
    cases h
    exact ⟨u, hu, rfl⟩
  · rintro ⟨u, hu, rfl⟩
    exact ⟨v, u, hu, rfl⟩

/-- The low `m + n` bits of a value are its low `m` bits and the `n` above them. -/
theorem mod_two_pow_add (x m n : Nat) : x % 2 ^ (m + n) = x % 2 ^ m ||| ((x >>> m) % 2 ^ n) <<< m := by
  rw [Nat.pow_add, Nat.mod_mul, Nat.add_comm, Nat.two_pow_add_eq_or_of_lt (Nat.mod_lt _ (Nat.two_pow_pos m)),
    Nat.or_comm, Nat.shiftRight_eq_div_pow, Nat.shiftLeft_eq, Nat.mul_comm]

/-- Settles O12: the second refill carries on the first one, and what it fetches does not depend on the bits consumed between. The
bounds of the cursor are not needed. -/
theorem readsCompose : Obligations.ReadsCompose := by
  intro s t u a b x y hwidth _ _ hx hy
  obtain ⟨t', hpeek, rfl⟩ := readBits_eq_ok.1 hx
  obtain ⟨u', hpeek', rfl⟩ := readBits_eq_ok.1 hy
  obtain ⟨-, ht, rfl⟩ := peekBits_eq_ok.1 hpeek
  obtain ⟨-, hu, rfl⟩ := peekBits_eq_ok.1 hpeek'
  obtain ⟨w, hw, rfl⟩ := hu.of_consume ht.le_cnt hwidth
  have hlow : t'.acc.toNat % 2 ^ a = w.acc.toNat % 2 ^ a := by
    apply Nat.eq_of_testBit_eq
    intro i
    simp only [Nat.testBit_mod_two_pow, BitVec.testBit_toNat]
    by_cases hi : i < a
    · rw [hw.getLsbD_eq (hi.trans_le ht.le_cnt)]
    · simp [hi]
  have hvalue : w.acc.toNat % 2 ^ (a + b) =
      t'.acc.toNat % 2 ^ a ||| ((w.consume a).acc.toNat % 2 ^ b) <<< a := by
    rw [mod_two_pow_add, hlow]
    simp [State.consume]
  exact readBits_eq_ok.2 ⟨w, peekBits_eq_ok.2 ⟨hwidth, ht.trans (by omega) hw, hvalue.symm⟩, State.consume_consume a b w⟩

/-- Settles O11: after a peek the bits are buffered, so the refills after it end at once. -/
theorem peekThenReadAgree : Obligations.PeekThenReadAgree := by
  intro s t n v h
  obtain ⟨hn, ht, hv⟩ := peekBits_eq_ok.1 h
  have hagain : peekBits n t = .ok v t := peekBits_eq_ok.2 ⟨hn, .done ht.le_cnt, hv⟩
  exact ⟨ht.bitpos_eq, hagain, readBits_eq_ok.2 ⟨t, hagain, rfl⟩⟩

/-- Settles O9: no bit is asked for, so nothing is fetched or consumed. -/
theorem zeroWidthReadChangesNothing : Obligations.ZeroWidthReadChangesNothing := by
  intro s
  have hpeek : peekBits 0 s = .ok 0 s :=
    peekBits_eq_ok.2 ⟨Nat.zero_le _, .done (Nat.zero_le _), by rw [Nat.pow_zero, Nat.mod_one]⟩
  exact ⟨readBits_eq_ok.2 ⟨s, hpeek, s.consume_zero.symm⟩, hpeek⟩

/-- Settles O10: both operations check the width before they touch the state. -/
theorem wideReadIsRefused : Obligations.WideReadIsRefused := by
  intro s n hn
  have hpeek : peekBits n s = .refuse .readTooWide := if_pos hn
  exact ⟨by rw [readBits, hpeek]; rfl, hpeek⟩

/-! ## The bounds of the BitCursor (R106) -/

/-- What R106 bounds: at most 23 buffered bits, and `acc` clear above them. -/
structure State.CursorBounded (s : State) : Prop where
  cnt_le : s.cnt ≤ 23
  acc_lt : s.acc.toNat < 2 ^ s.cnt

theorem State.CursorBounded.buffer {s : State} {b : Byte} (h : s.CursorBounded) (hcnt : s.cnt < 16) :
    (s.buffer b).CursorBounded where
  cnt_le := by rw [State.buffer_cnt]; omega
  acc_lt := by
    have hold : s.acc.toNat < 2 ^ (s.cnt + 8) := h.acc_lt.trans_le (Nat.pow_le_pow_right (by omega) (by omega))
    have hbyte : (b.setWidth 24 <<< s.cnt).toNat < 2 ^ (s.cnt + 8) := by
      rw [BitVec.toNat_shiftLeft, BitVec.toNat_setWidth_of_le (by omega), Nat.add_comm, Nat.pow_add]
      rw [Nat.shiftLeft_eq]
      exact (Nat.mod_le _ _).trans_lt (Nat.mul_lt_mul_of_pos_right b.isLt (Nat.two_pow_pos _))
    simpa [State.buffer] using Nat.or_lt_two_pow hold hbyte

theorem State.CursorBounded.consume {s : State} {n : Nat} (h : s.CursorBounded) (hn : n ≤ s.cnt) :
    (s.consume n).CursorBounded where
  cnt_le := (Nat.sub_le _ _).trans h.cnt_le
  acc_lt := by
    have hacc : s.acc.toNat < 2 ^ (s.cnt - n) * 2 ^ n := by
      rw [← Nat.pow_add, Nat.sub_add_cancel hn]
      exact h.acc_lt
    simpa [State.consume, Nat.shiftRight_eq_div_pow] using (Nat.div_lt_iff_lt_mul (Nat.two_pow_pos n)).2 hacc

/-- Every move of a read keeps the bounds. -/
theorem Scan.cursorBounded {s t : State} (h : Scan s t) (hs : s.CursorBounded) : t.CursorBounded := by
  induction h with
  | refl => exact hs
  | fetch _ hcnt _ _ ih => exact ih.buffer hcnt
  | consume n _ hn ih => exact ih.consume hn
  | walk l v _ _ _ ih => exact ⟨ih.cnt_le, ih.acc_lt⟩

/-- A peek passes through the states of its refill alone. -/
theorem peekBits_scans {n : Nat} {s t : State} (hst : Scan s t) (hn : n ≤ 16) :
    (peekBits n t).Scans s fun _ _ => True := by
  rw [peekBits_eq n t hn]
  exact (refill_scans hst hn).bind fun _ _ hu _ => ⟨hu, trivial⟩

/-- The state an operation answers or raises in is within the bounds, where it scans from one that is. -/
theorem Res.Scans.cursorBounded {α : Type} {s t : State} {r : Res α} {P : α → State → Prop} (h : r.Scans s P)
    (hs : s.CursorBounded) (ht : (∃ v, r = .ok v t) ∨ r = .raised t) : t.CursorBounded := by
  obtain ⟨v, hr⟩ | hr := ht
  · exact (h.of_ok hr).1.cursorBounded hs
  · obtain ⟨u, f, hu, rfl⟩ := h.of_raised hr
    have hbounded := hu.cursorBounded hs
    exact ⟨hbounded.cnt_le, hbounded.acc_lt⟩

/-- Settles O8: reads and peeks pass through states within the bounds, and a read leaves no whole byte buffered. -/
theorem readsKeepTheCursorBounds : Obligations.ReadsKeepTheCursorBounds := by
  intro s t n hn hcnt hacc h
  have hread := readBits_scans (n := n) (.refl (s := s))
  have hpeek := peekBits_scans (.refl (s := s)) hn
  have hbounded : t.CursorBounded := by
    obtain h | h | h | h := h
    · exact hread.cursorBounded ⟨hcnt, hacc⟩ (.inl h)
    · exact hpeek.cursorBounded ⟨hcnt, hacc⟩ (.inl h)
    · exact hread.cursorBounded ⟨hcnt, hacc⟩ (.inr h)
    · exact hpeek.cursorBounded ⟨hcnt, hacc⟩ (.inr h)
  refine ⟨hbounded.cnt_le, hbounded.acc_lt, ?_⟩
  rintro ⟨v, hv⟩
  obtain ⟨-, -, -, hrest⟩ := hread.of_ok hv
  exact hrest

/-! ## The stream bits of a read (R107) -/

/-- Settles O6: below the end SRC lists the byte at `pos`. -/
theorem fetchReadsTheNextByte : Obligations.FetchReadsTheNextByte := by
  intro s hs
  refine ⟨fun hend => if_pos hend.ge, fun hpos => ?_⟩
  obtain ⟨b, hb⟩ := fetchByte_of_lt hs.src_dense hpos
  exact ⟨b, (fetchByte_ok hb).2.1, hb⟩

/-- The number with the bits `f 0`, `f 1`, up to `f (n - 1)`, first bit at bit 0, is less than `2 ^ n`. -/
theorem bitSum_lt (f : Nat → Bool) (n : Nat) : ((List.range n).map fun i => (f i).toNat <<< i).sum < 2 ^ n := by
  induction n with
  | zero => simp
  | succ n ih =>
    have hbit : (f n).toNat <<< n ≤ 2 ^ n := by cases f n <;> simp [Nat.shiftLeft_eq]
    simp only [List.range_succ, List.map_append, List.sum_append, List.map_singleton, List.sum_singleton, Nat.pow_succ]
    omega

/-- As an integer field that number has those bits. -/
theorem fieldBits_bitSum (f : Nat → Bool) (n : Nat) :
    fieldBits n ((List.range n).map fun i => (f i).toNat <<< i).sum = (List.range n).map f := by
  apply List.map_congr_left
  intro i hi
  rw [List.mem_range] at hi
  induction n with
  | zero => omega
  | succ n ih =>
    have hlt := bitSum_lt f n
    simp only [List.range_succ, List.map_append, List.sum_append, List.map_singleton, List.sum_singleton]
    rw [Nat.shiftLeft_eq, Nat.mul_comm, Nat.add_comm]
    obtain hlast | hold : i = n ∨ i < n := by omega
    · subst hlast
      rw [Nat.testBit_two_pow_mul_add _ hlt]
      cases f i <;> simp
    · rw [Nat.testBit_two_pow_mul_add _ hlt, if_pos hold]
      exact ih hold

/-- The unread bits begin with the stream bits at the bit position. -/
theorem State.unread_split {s : State} {n : Nat} (h : s.bitpos + n ≤ 8 * s.srcLen) :
    s.unread = ((List.range n).map fun i => s.streamBit (s.bitpos + i)) ++ s.unread.drop n := by
  have hn : n ≤ 8 * s.srcLen - s.bitpos := by omega
  calc s.unread = s.unread.take n ++ s.unread.drop n := (List.take_append_drop n _).symm
    _ = _ := by rw [State.unread, ← List.map_take, List.take_range, min_eq_left hn]

/-- A read of more bits than the source has left raises (R103, R107). -/
theorem readBits_raises_at_end {n : Nat} {s : State} (hs : s.Readable) (hn : n ≤ 16)
    (hend : 8 * s.srcLen < s.bitpos + n) :
    ∃ t, CursorOnly s t ∧ readBits n s = .raised (t.raise .unexpectedEndOfStream) := by
  have hgoes := readBits_goes hs hn
  cases h : readBits n s with
  | ok v t =>
    rw [h] at hgoes
    have hless := hgoes.unread_length_le
    have hbound : s.bitpos ≤ 8 * s.srcLen := by have := hs.pos_le; simp only [State.bitpos]; omega
    rw [s.unread_length] at hless
    omega
  | raised t =>
    obtain ⟨u, hu, rfl⟩ := readBits_raised h
    exact ⟨u, hu, rfl⟩
  | stop x => exact (h ▸ hgoes).elim
  | refuse x => exact (h ▸ hgoes).elim

/-- Settles O7: the bits asked for are an integer field where the source has them, and otherwise the read meets its end. -/
theorem readBitsDeliversStreamBits : Obligations.ReadBitsDeliversStreamBits := by
  intro s n hs hcnt hn
  constructor
  · intro havail
    have hpresents : s.Presents (fieldBits n ((List.range n).map fun i => (s.streamBit (s.bitpos + i)).toNat <<< i).sum ++
        s.unread.drop n) :=
      ⟨hs, hcnt, by rw [fieldBits_bitSum fun i => s.streamBit (s.bitpos + i)]; exact State.unread_split havail⟩
    exact (readBits_field hn (bitSum_lt _ n) hpresents).1
  · intro hend
    obtain ⟨_, ⟨acc, cnt, pos, rfl⟩, hraised⟩ := readBits_raises_at_end hs.readable hn hend
    exact ⟨acc, cnt, pos, hraised⟩

end Sys2Proof.Machine

namespace Sys2Proof.Machine

/-! # The CanonicalHuffmanBuilder and the symbol decoder (41_huffman_builder.md)

BUILD is understood through `codeStart lens L`, the value its running code has when it reaches length `L`. It succeeds exactly when
no `codeStart` passes its length (`CodesFit`), which is the Kraft bound, and then every symbol has `symbolCode`
(`canonicalCodes_spec`). DECODE_SYM is understood through the bits of its walk (`decodeSym_inside`). -/

/-! ## The first code of a length (R127(d)) -/

/-- The first code of length `L` (R127(d)). -/
def codeStart (lens : List Nat) (L : Nat) : Nat :=
  ((List.range L).map fun k => if k = 0 then 0 else lens.count k * 2 ^ (L - k)).sum

/-- The code of symbol `x`, which has length `l` (R127(d)). -/
def symbolCode (lens : List Nat) (x l : Nat) : Option Nat :=
  if l = 0 then none else some (codeStart lens l + (lens.take x).count l)

@[simp] theorem codeStart_zero (lens : List Nat) : codeStart lens 0 = 0 := rfl

@[simp] theorem codeStart_one (lens : List Nat) : codeStart lens 1 = 0 := rfl

/-- The running code passes the symbols of a length and shifts (R123). -/
theorem codeStart_succ (lens : List Nat) {L : Nat} (hL : L ≠ 0) :
    codeStart lens (L + 1) = 2 * (codeStart lens L + lens.count L) := by
  have hshift : ((List.range L).map fun k => if k = 0 then 0 else lens.count k * 2 ^ (L + 1 - k)) =
      (List.range L).map fun k => 2 * if k = 0 then 0 else lens.count k * 2 ^ (L - k) := by
    refine List.map_congr_left fun k hk => ?_
    rw [List.mem_range] at hk
    rw [Nat.succ_sub hk.le, Nat.pow_succ]
    split <;> ring
  simp only [codeStart, List.range_succ, List.map_append, List.sum_append, hshift, List.sum_map_mul_left, List.map_singleton,
    List.sum_singleton, if_neg hL, Nat.add_sub_cancel_left]
  ring

theorem two_mul_codeStart_le (lens : List Nat) (L : Nat) : 2 * codeStart lens L ≤ codeStart lens (L + 1) := by
  obtain rfl | hL := Nat.eq_zero_or_pos L
  · simp
  · rw [codeStart_succ lens hL.ne']
    omega

theorem two_pow_mul_codeStart_le (lens : List Nat) (L d : Nat) : 2 ^ d * codeStart lens L ≤ codeStart lens (L + d) := by
  induction d with
  | zero => simp
  | succ d ih =>
    calc 2 ^ (d + 1) * codeStart lens L = 2 * (2 ^ d * codeStart lens L) := by ring
      _ ≤ 2 * codeStart lens (L + d) := Nat.mul_le_mul_left 2 ih
      _ ≤ codeStart lens (L + d + 1) := two_mul_codeStart_le lens (L + d)

/-- Above the longest length the running code only shifts. -/
theorem codeStart_add {lens : List Nat} {L : Nat} (hL : L ≠ 0) (hlens : ∀ l ∈ lens, l < L) (d : Nat) :
    codeStart lens (L + d) = 2 ^ d * codeStart lens L := by
  induction d with
  | zero => simp
  | succ d ih =>
    have hnone : lens.count (L + d) = 0 := List.count_eq_zero.2 fun h => by have := hlens _ h; omega
    rw [← Nat.add_assoc, codeStart_succ lens (by omega), ih, hnone]
    ring

/-- The codes of a longer length begin past the codes of a shorter one. -/
theorem codeStart_add_count_le {lens : List Nat} {l m : Nat} (hl : l ≠ 0) (hlm : l < m) :
    2 ^ (m - l) * (codeStart lens l + lens.count l) ≤ codeStart lens m := by
  obtain ⟨d, rfl⟩ := Nat.exists_eq_add_of_lt hlm
  have h := two_pow_mul_codeStart_le lens (l + 1) d
  rw [codeStart_succ lens hl] at h
  have hwidth : l + d + 1 - l = d + 1 := by omega
  have hindex : l + d + 1 = l + 1 + d := by omega
  rw [hwidth, hindex, Nat.pow_succ, Nat.mul_assoc]
  exact h

/-- Up to the shortest used length the running code is 0 (R123). -/
theorem codeStart_eq_zero {lens : List Nat} {L : Nat} (h : ∀ l ∈ lens, l ≠ 0 → L ≤ l) : codeStart lens L = 0 := by
  refine List.sum_eq_zero fun n hn => ?_
  obtain ⟨k, hk, rfl⟩ := List.mem_map.1 hn
  rw [List.mem_range] at hk
  split
  · rfl
  · next hk0 =>
    have hnone : lens.count k = 0 := List.count_eq_zero.2 fun hmem => by have := h k hmem hk0; omega
    rw [hnone, Nat.zero_mul]

/-! ## The Kraft sum (R125) -/

/-- The running code never passes its length: the array is not over-subscribed (R125). -/
def CodesFit (lens : List Nat) : Prop := ∀ L, codeStart lens L ≤ 2 ^ L

theorem codesFit_of_codeStart_le {lens : List Nat} {M : Nat} (hM : M ≠ 0) (hlens : ∀ l ∈ lens, l < M)
    (h : codeStart lens M ≤ 2 ^ M) : CodesFit lens := by
  intro L
  obtain hle | hge := le_total L M
  · obtain ⟨d, rfl⟩ := Nat.exists_eq_add_of_le hle
    refine Nat.le_of_mul_le_mul_left (?_ : 2 ^ d * _ ≤ 2 ^ d * _) (Nat.two_pow_pos d)
    rw [← Nat.pow_add, Nat.add_comm d L]
    exact (two_pow_mul_codeStart_le lens L d).trans h
  · obtain ⟨d, rfl⟩ := Nat.exists_eq_add_of_le hge
    rw [codeStart_add hM hlens, Nat.pow_add, Nat.mul_comm (2 ^ M)]
    exact Nat.mul_le_mul_left _ h

theorem codeStart_cons (l : Nat) (ls : List Nat) (L : Nat) :
    codeStart (l :: ls) L = codeStart ls L + if l ≠ 0 ∧ l < L then 2 ^ (L - l) else 0 := by
  induction L with
  | zero => simp
  | succ L ih =>
    obtain rfl | hL := Nat.eq_zero_or_pos L
    · simp
    · rw [codeStart_succ _ hL.ne', codeStart_succ _ hL.ne', ih, List.count_cons]
      obtain hlt | rfl | hgt := Nat.lt_trichotomy l L
      · have hshift : L + 1 - l = L - l + 1 := by omega
        by_cases hl : l = 0
        · simp [hl, hL.ne]
        · simp [hl, hlt, hlt.ne, hlt.trans (Nat.lt_succ_self L), hshift, Nat.pow_succ]
          ring
      · simp [hL.ne']
        ring
      · have hge : ¬ l < L := by omega
        have hge' : ¬ l < L + 1 := by omega
        simp [hge, hge', hgt.ne']

theorem kraft_cons (l : Nat) (ls : List Nat) : kraft (l :: ls) = kraft ls + if l = 0 then 0 else 2 ^ (15 - l) := by
  by_cases hl : l = 0
  · simp [kraft, hl]
  · simp [kraft, hl, Nat.add_comm]

/-- The first code of length 16 is twice the Kraft sum (R125). -/
theorem codeStart_sixteen {lens : List Nat} (hlens : ∀ l ∈ lens, l ≤ 15) : codeStart lens 16 = 2 * kraft lens := by
  induction lens with
  | nil => decide
  | cons l ls ih =>
    obtain ⟨hl, hls⟩ := List.forall_mem_cons.1 hlens
    rw [codeStart_cons, kraft_cons, ih hls]
    by_cases h0 : l = 0
    · simp [h0]
    · have hlt : l < 16 := by omega
      have hshift : 16 - l = 15 - l + 1 := by omega
      simp only [h0, hlt, hshift, ne_eq, not_false_eq_true, and_self, if_true, if_false, Nat.pow_succ]
      ring

theorem codesFit_iff_kraft_le {lens : List Nat} (hlens : ∀ l ∈ lens, l ≤ 15) :
    CodesFit lens ↔ kraft lens ≤ 2 ^ 15 := by
  have hkraft := codeStart_sixteen hlens
  constructor
  · intro h
    have := h 16
    omega
  · intro h
    exact codesFit_of_codeStart_le (M := 16) (by omega) (fun l hl => Nat.lt_succ_of_le (hlens l hl)) (by omega)

theorem kraft_pos_iff {lens : List Nat} : 0 < kraft lens ↔ ∃ l ∈ lens, l ≠ 0 := by
  induction lens with
  | nil => simp [kraft]
  | cons l ls ih =>
    rw [kraft_cons, List.exists_mem_cons_iff, ← ih]
    by_cases hl : l = 0 <;> simp [hl]

/-! ## The loops of BUILD (R123) -/

/-- What the inner loop of BUILD answers at length `L`, entered with a running code of at most `2 ^ L`: the codes of the symbols of
that length, in symbol order, or that they do not fit. -/
def LengthNumbered (L : Nat) (ls : List Nat) (cs : List (Option Nat)) (code : Nat) :
    Except Nat (List (Option Nat) × Nat) → Prop
  | .error _ => 2 ^ L < code + ls.count L
  | .ok r => code + ls.count L ≤ 2 ^ L ∧ r.2 = code + ls.count L ∧ r.1.length = ls.length ∧
      ∀ x l, ls[x]? = some l → r.1[x]? = if l = L then some (some (code + (ls.take x).count L)) else cs[x]?

theorem assignLength_spec {L : Nat} {ls : List Nat} {cs : List (Option Nat)} {code : Nat} (hcs : cs.length = ls.length)
    (hcode : code ≤ 2 ^ L) : LengthNumbered L ls cs code (assignLength L ls cs code) := by
  induction ls generalizing cs code with
  | nil => simpa [assignLength, LengthNumbered] using hcode
  | cons l ls ih =>
    obtain ⟨c, cs, rfl⟩ := List.exists_cons_of_length_eq_add_one hcs
    have hcs : cs.length = ls.length := by simpa using hcs
    rw [assignLength]
    split
    · next hl =>
      subst hl
      split
      · simp only [LengthNumbered, List.count_cons_self]
        omega
      · next hfits =>
        have hrest := ih (code := code + 1) hcs (by omega)
        cases hr : assignLength l ls cs (code + 1) with
        | error e =>
          simp only [hr, LengthNumbered, List.count_cons_self] at hrest ⊢
          omega
        | ok r =>
          rw [hr] at hrest
          obtain ⟨hfit, hend, hlength, hnumbers⟩ := hrest
          simp only [LengthNumbered, List.count_cons_self, List.length_cons]
          refine ⟨by omega, by omega, by omega, fun x m hx => ?_⟩
          cases x with
          | zero =>
            obtain rfl : l = m := by simpa using hx
            simp
          | succ x =>
            have := hnumbers x m (by simpa using hx)
            simpa [Nat.add_comm, Nat.add_left_comm] using this
    · next hl =>
      have hrest := ih hcs hcode
      cases hr : assignLength L ls cs code with
      | error e => simpa [hr, LengthNumbered, List.count_cons_of_ne hl] using hrest
      | ok r =>
        rw [hr] at hrest
        obtain ⟨hfit, hend, hlength, hnumbers⟩ := hrest
        simp only [LengthNumbered, List.count_cons_of_ne hl, List.length_cons]
        refine ⟨hfit, hend, by omega, fun x m hx => ?_⟩
        cases x with
        | zero =>
          obtain rfl : l = m := by simpa using hx
          simp [hl]
        | succ x => simpa [List.count_cons_of_ne hl] using hnumbers x m (by simpa using hx)

/-- The symbols of lengths below `L` have their codes, and no other symbol has one. -/
structure NumberedBelow (lens : List Nat) (L : Nat) (codes : List (Option Nat)) : Prop where
  length_eq : codes.length = lens.length
  code_eq : ∀ x l, lens[x]? = some l → codes[x]? = some (if l < L then symbolCode lens x l else none)

/-- What the outer loop of BUILD answers when it has passed the lengths below `M`. -/
def BuiltBelow (lens : List Nat) (M : Nat) : Except Nat (List (Option Nat) × Nat) → Prop
  | .error _ => ¬ CodesFit lens
  | .ok r => codeStart lens M ≤ 2 ^ M ∧ NumberedBelow lens M r.1

theorem assignFrom_spec {lens : List Nat} {first n L : Nat} {codes : List (Option Nat)} {code : Nat} (hL : L ≠ 0)
    (hfirst : first ≤ L) (hcode : (if first < L then code <<< 1 else code) = codeStart lens L)
    (hfits : codeStart lens L ≤ 2 ^ L) (hcodes : NumberedBelow lens L codes) :
    BuiltBelow lens (L + n) (assignFrom lens first n L codes code) := by
  induction n generalizing L codes code with
  | zero => exact ⟨hfits, hcodes⟩
  | succ n ih =>
    have hlevel := assignLength_spec hcodes.length_eq hfits
    have hnext := codeStart_succ lens hL
    rw [assignFrom, hcode]
    cases hr : assignLength L lens codes (codeStart lens L) with
    | error e =>
      rw [hr] at hlevel
      intro hfit
      have hover := hfit (L + 1)
      rw [hnext, Nat.pow_succ] at hover
      simp only [LengthNumbered] at hlevel
      omega
    | ok r =>
      rw [hr] at hlevel
      obtain ⟨hfit, hend, hlength, hnumbers⟩ := hlevel
      rw [Nat.add_comm n 1, ← Nat.add_assoc]
      refine ih (by omega) (by omega) ?_ (by rw [hnext, Nat.pow_succ]; omega) ⟨hlength, fun x l hx => ?_⟩
      · rw [if_pos (by omega), hend, hnext, Nat.shiftLeft_eq, Nat.mul_comm]
      · rw [hnumbers x l hx]
        by_cases hl : l = L
        · simp [hl, hL, symbolCode]
        · have hlt : l < L + 1 ↔ l < L := by omega
          simp only [hl, hlt, if_false]
          exact hcodes.code_eq x l hx

theorem min?_filter_eq_minLen {lens : List Nat} {l : Nat} (hl : l ∈ lens) (hl0 : l ≠ 0) :
    (lens.filter (· ≠ 0)).min? = some (minLen lens) := by
  have hmem : l ∈ lens.filter (· ≠ 0) := List.mem_filter.2 ⟨hl, decide_eq_true hl0⟩
  obtain ⟨m, hm⟩ := Option.isSome_iff_exists.1 (List.isSome_min?_of_mem hmem)
  rw [minLen, hm, Option.getD_some]

theorem minLen_mem {lens : List Nat} {l : Nat} (hl : l ∈ lens) (hl0 : l ≠ 0) :
    minLen lens ∈ lens ∧ minLen lens ≠ 0 := by
  obtain ⟨hmem, hne⟩ := List.mem_filter.1 (List.min?_mem (min?_filter_eq_minLen hl hl0))
  exact ⟨hmem, of_decide_eq_true hne⟩

theorem minLen_le_of_mem {lens : List Nat} {l : Nat} (hl : l ∈ lens) (hl0 : l ≠ 0) : minLen lens ≤ l :=
  (List.min?_eq_some_iff.1 (min?_filter_eq_minLen hl hl0)).2 l (List.mem_filter.2 ⟨hl, decide_eq_true hl0⟩)

theorem le_maxLen_of_mem {lens : List Nat} {l : Nat} (hl : l ∈ lens) : l ≤ maxLen lens := by
  rw [maxLen, List.foldl_eq_foldr]
  exact List.le_max_of_le hl le_rfl

/-- What BUILD answers for an array with a used symbol (R123, R125). -/
theorem canonicalCodes_spec {lens : List Nat} (hused : 0 < kraft lens) :
    BuiltBelow lens (maxLen lens + 1) (canonicalCodes lens) := by
  obtain ⟨u, hu, hu0⟩ := kraft_pos_iff.1 hused
  obtain ⟨hmin, hmin0⟩ := minLen_mem hu hu0
  have hle := le_maxLen_of_mem hmin
  have hend : minLen lens + (maxLen lens + 1 - minLen lens) = maxLen lens + 1 := by omega
  have hstart : codeStart lens (minLen lens) = 0 := codeStart_eq_zero fun l hl => minLen_le_of_mem hl
  have hnone : NumberedBelow lens (minLen lens) (lens.map fun _ => none) := by
    refine ⟨List.length_map _, fun x l hx => ?_⟩
    rw [List.getElem?_map, hx, Option.map_some]
    by_cases hl : l < minLen lens
    · have hl0 : l = 0 := by
        by_contra h0
        exact absurd (minLen_le_of_mem (List.mem_of_getElem? hx) h0) (Nat.not_le.2 hl)
      simp [hl0, symbolCode]
    · simp [hl]
  have hbuilt := assignFrom_spec (n := maxLen lens + 1 - minLen lens) (code := 0) hmin0 le_rfl (by simp [hstart])
    (by simp [hstart]) hnone
  rwa [hend] at hbuilt

theorem canonicalCodes_ok {lens : List Nat} {codes : List (Option Nat)} {c : Nat} (hused : 0 < kraft lens)
    (h : canonicalCodes lens = .ok (codes, c)) :
    CodesFit lens ∧ codes.length = lens.length ∧ ∀ x l, lens[x]? = some l → codes[x]? = some (symbolCode lens x l) := by
  have hspec := canonicalCodes_spec hused
  rw [h] at hspec
  obtain ⟨hfits, hlength, hcodes⟩ := hspec
  refine ⟨codesFit_of_codeStart_le (by omega) (fun l hl => Nat.lt_succ_of_le (le_maxLen_of_mem hl)) hfits, hlength,
    fun x l hx => ?_⟩
  have hlt := Nat.lt_succ_of_le (le_maxLen_of_mem (List.mem_of_getElem? hx))
  rw [hcodes x l hx, if_pos hlt]

/-- BUILD succeeds exactly where the codes fit (R125, R126). -/
theorem canonicalCodes_eq_ok_iff {lens : List Nat} (hused : 0 < kraft lens) :
    (∃ codes c, canonicalCodes lens = .ok (codes, c)) ↔ CodesFit lens := by
  constructor
  · rintro ⟨codes, c, h⟩
    exact (canonicalCodes_ok hused h).1
  · intro hfit
    have hspec := canonicalCodes_spec hused
    cases h : canonicalCodes lens with
    | error e =>
      rw [h] at hspec
      exact absurd hfit hspec
    | ok r => exact ⟨r.1, r.2, rfl⟩

/-! ## BUILD -/

/-- Settles O13: BUILD looks for a used symbol first. -/
theorem allZeroLengthsAreInvalid : Obligations.AllZeroLengthsAreInvalid := by
  intro lens s hzero
  have hall : lens.all (· = 0) = true := List.all_eq_true.2 fun l hl => decide_eq_true (hzero l hl)
  exact if_pos hall

/-- With a used symbol BUILD answers the canonical codes, where they fit (R123). -/
theorem build_of_canonicalCodes {lens : List Nat} {codes : List (Option Nat)} {c : Nat} (s : State) (hused : 0 < kraft lens)
    (h : canonicalCodes lens = .ok (codes, c)) : build lens s = .ok codes { s with code := c } := by
  have hsome : ¬ lens.all (· = 0) = true := by
    obtain ⟨l, hl, hl0⟩ := kraft_pos_iff.1 hused
    exact fun hall => hl0 (of_decide_eq_true (List.all_eq_true.1 hall l hl))
  rw [build, if_neg hsome, h]

/-- Settles O14: BUILD fails exactly where a code does not fit its length, which is the Kraft bound. -/
theorem oversubscribedLengthsAreInvalid : Obligations.OversubscribedLengthsAreInvalid := by
  intro lens s hlens hused
  have hfit := (canonicalCodes_eq_ok_iff hused).trans (codesFit_iff_kraft_le hlens)
  constructor
  · intro hover
    obtain ⟨codes, t, h⟩ | ⟨t, h⟩ := build_total lens s
    · obtain ⟨c, hcodes, -⟩ := build_ok h
      exact absurd (hfit.1 ⟨codes, c, hcodes⟩) (Nat.not_le.2 hover)
    · obtain ⟨c, rfl⟩ := build_raised h
      exact ⟨c, h⟩
  · intro hle
    obtain ⟨codes, c, h⟩ := hfit.2 hle
    exact ⟨codes, c, build_of_canonicalCodes s hused h⟩

/-- Settles O15: the code of a symbol is the first code of its length and one more for each symbol before it. -/
theorem canonicalCodeClosedForm : Obligations.CanonicalCodeClosedForm := by
  intro lens codes c hused h
  obtain ⟨-, hlength, hcodes⟩ := canonicalCodes_ok hused h
  refine ⟨hlength, fun x l hx => ⟨fun hl => ?_, fun hl => ?_⟩⟩
  · rw [hcodes x l hx, symbolCode, if_pos hl]
  · rw [hcodes x l hx, symbolCode, if_neg hl]
    rfl

/-! ## The soundness of a table of canonical codes (R127) -/

/-- The entries of the table are the symbols' lengths and, where a symbol is used, its code. -/
def CodeTable.Canonical (lens : List Nat) (tb : CodeTable) : Prop :=
  ∀ x l c, tb[x]? = some (l, c) → lens[x]? = some l ∧ (l ≠ 0 → symbolCode lens x l = some c)

/-- From one symbol of a length to a later symbol the count of that length grows. -/
theorem count_take_lt {lens : List Nat} {x y l : Nat} (hxy : x < y) (hx : lens[x]? = some l) :
    (lens.take x).count l < (lens.take y).count l := by
  have hprefix : (lens.take (x + 1)).Sublist (lens.take y) := List.take_sublist_take_left hxy
  have hcount := hprefix.count_le l
  rw [List.take_add_one, hx, List.count_append, Option.toList_some, List.count_singleton_self] at hcount
  omega

theorem count_take_lt_count {lens : List Nat} {x l : Nat} (hx : lens[x]? = some l) :
    (lens.take x).count l < lens.count l := by
  have hlt := count_take_lt (y := lens.length) (List.getElem?_eq_some_iff.1 hx).1 hx
  rwa [List.take_length] at hlt

theorem symbolCode_eq_some {lens : List Nat} {x l c : Nat} (h : symbolCode lens x l = some c) :
    l ≠ 0 ∧ c = codeStart lens l + (lens.take x).count l := by
  unfold symbolCode at h
  split at h
  · cases h
  · next hl => exact ⟨hl, (Option.some.inj h).symm⟩

/-- The codes of one length end where its symbols are counted off (R127(d)). -/
theorem symbolCode_lt {lens : List Nat} {x l c : Nat} (hx : lens[x]? = some l) (h : symbolCode lens x l = some c) :
    c < codeStart lens l + lens.count l := by
  obtain ⟨-, rfl⟩ := symbolCode_eq_some h
  exact Nat.add_lt_add_left (count_take_lt_count hx) _

/-- Where the codes fit, the code of a symbol fits its length (R127(a)). -/
theorem symbolCode_lt_two_pow {lens : List Nat} {x l c : Nat} (hfit : CodesFit lens) (hx : lens[x]? = some l)
    (h : symbolCode lens x l = some c) : c < 2 ^ l := by
  have hlt := symbolCode_lt hx h
  have hnext := hfit (l + 1)
  rw [codeStart_succ lens (symbolCode_eq_some h).1, Nat.pow_succ] at hnext
  omega

/-- The codes of one length rise in symbol order (R127(b)). -/
theorem symbolCode_strictMono {lens : List Nat} {x y l c d : Nat} (hxy : x < y) (hx : lens[x]? = some l)
    (hc : symbolCode lens x l = some c) (hd : symbolCode lens y l = some d) : c < d := by
  obtain ⟨-, rfl⟩ := symbolCode_eq_some hc
  obtain ⟨-, rfl⟩ := symbolCode_eq_some hd
  exact Nat.add_lt_add_left (count_take_lt hxy hx) _

/-- The first characters of a longer codeword are no codeword: they are past the codes of their length (R127(c)). -/
theorem symbolCode_lt_start {lens : List Nat} {x y l m c d : Nat} (hlm : l < m) (hx : lens[x]? = some l)
    (hc : symbolCode lens x l = some c) (hd : symbolCode lens y m = some d) : c < d >>> (m - l) := by
  have hlt := symbolCode_lt hx hc
  have hstart := codeStart_add_count_le (lens := lens) (symbolCode_eq_some hc).1 hlm
  obtain ⟨-, rfl⟩ := symbolCode_eq_some hd
  rw [Nat.shiftRight_eq_div_pow, ← Nat.succ_le_iff, Nat.le_div_iff_mul_le (Nat.two_pow_pos _), Nat.mul_comm]
  exact (Nat.mul_le_mul_left _ hlt).trans (hstart.trans (Nat.le_add_right _ _))

/-- Two symbols have codewords neither of which begins with the other (R127(c)). -/
theorem CodeTable.Canonical.clashes_eq_false {lens : List Nat} {tb : CodeTable} {x y : Nat} {a b : Nat × Nat}
    (h : tb.Canonical lens) (hxy : x < y) (hx : tb[x]? = some a) (hy : tb[y]? = some b) : clashes a b = false := by
  obtain ⟨l, c⟩ := a
  obtain ⟨m, d⟩ := b
  obtain ⟨hlx, hcx⟩ := h x l c hx
  obtain ⟨hly, hcy⟩ := h y m d hy
  refine decide_eq_false ?_
  rintro ⟨hl, hm, hclash⟩
  have hc := hcx hl
  have hd := hcy hm
  dsimp only at hclash
  obtain hlt | rfl | hgt := Nat.lt_trichotomy l m
  · rw [if_pos hlt.le] at hclash
    exact (symbolCode_lt_start hlt hlx hc hd).ne' hclash
  · rw [if_pos le_rfl, Nat.sub_self, Nat.shiftRight_zero] at hclash
    exact (symbolCode_strictMono hxy hlx hc hd).ne' hclash
  · rw [if_neg (Nat.not_le.2 hgt)] at hclash
    exact (symbolCode_lt_start hgt hly hd hc).ne' hclash

/-- A table of canonical codes that fit is sound (R127(a), (c)). -/
theorem CodeTable.Canonical.sound {lens : List Nat} {tb : CodeTable} (h : tb.Canonical lens)
    (hlens : ∀ l ∈ lens, l ≤ 15) (hfit : CodesFit lens) : tb.sound = true := by
  refine Bool.and_eq_true_iff.2 ⟨List.all_eq_true.2 fun e he => decide_eq_true ?_, decide_eq_true ?_⟩
  · obtain ⟨x, hx⟩ := List.mem_iff_getElem?.1 he
    obtain ⟨hlx, hcx⟩ := h x e.1 e.2 hx
    exact ⟨hlens _ (List.mem_of_getElem? hlx), fun hl => symbolCode_lt_two_pow hfit hlx (hcx hl)⟩
  · refine List.pairwise_iff_getElem.2 fun x y hx hy hxy => ?_
    exact h.clashes_eq_false hxy (List.getElem?_eq_getElem hx) (List.getElem?_eq_getElem hy)

/-- Settles O16: two codes of one length differ, and a code of a longer length begins past all codes of a shorter one. -/
theorem canonicalCodesArePrefixFree : Obligations.CanonicalCodesArePrefixFree := by
  intro lens codes c hlens hused h
  obtain ⟨hfit, -, hcodes⟩ := canonicalCodes_ok hused h
  constructor
  · refine CodeTable.Canonical.sound (fun x l cx hx => ?_) hlens hfit
    obtain ⟨hlx, hcx⟩ := List.getElem?_zip_eq_some.1 hx
    refine ⟨hlx, fun hl => ?_⟩
    rw [List.getElem?_map, hcodes x l hlx] at hcx
    simpa [symbolCode, hl] using hcx
  · intro x y l cx cy hxy hx hy hcx hcy
    rw [hcodes x l hx, Option.some.injEq] at hcx
    rw [hcodes y l hy, Option.some.injEq] at hcy
    exact symbolCode_strictMono hxy hx hcx hcy

/-- A register file that holds BUILD's codes at every used symbol makes a sound table, whatever stands at the unused ones. -/
theorem sound_of_holdsCodesOf {lens vals : List Nat} (hlens : ∀ l ∈ lens, l ≤ 15)
    (h : holdsCodesOf lens (lens.zip vals)) : CodeTable.sound (lens.zip vals) = true := by
  obtain ⟨codes, c, hok, hheld⟩ := h
  obtain hnone | hused := Nat.eq_zero_or_pos (kraft lens)
  · have hfit : CodesFit lens := (codesFit_iff_kraft_le hlens).2 (by omega)
    refine CodeTable.Canonical.sound (fun x l cx hx => ?_) hlens hfit
    obtain ⟨hlx, -⟩ := List.getElem?_zip_eq_some.1 hx
    exact ⟨hlx, fun hl => absurd (kraft_pos_iff.2 ⟨l, List.mem_of_getElem? hlx, hl⟩) (by omega)⟩
  · obtain ⟨hfit, -, hcodes⟩ := canonicalCodes_ok hused hok
    refine CodeTable.Canonical.sound (fun x l cx hx => ?_) hlens hfit
    obtain ⟨hlx, -⟩ := List.getElem?_zip_eq_some.1 hx
    refine ⟨hlx, fun hl => ?_⟩
    have hcode := hcodes x l hlx
    rw [symbolCode, if_neg hl] at hcode ⊢
    have hentry := (hheld x _ hcode).symm.trans hx
    exact congrArg some (Prod.mk.inj (Option.some.inj hentry)).2

/-- Settles O50: each table in use is one of BUILD's codes for lengths of at most 15. -/
theorem builtTablesAreSound : Obligations.BuiltTablesAreSound := by
  intro s h
  exact ⟨fun hp => sound_of_holdsCodesOf s.clLens_le (h.cl hp),
    fun hp => ⟨sound_of_holdsCodesOf s.llLens_le (h.ll hp), sound_of_holdsCodesOf s.dLens_le (h.d hp)⟩⟩

/-! ## The bits of a walk (R130) -/

theorem CodeTable.mem_codewords {tb : CodeTable} {cw : List Bool} :
    cw ∈ tb.codewords ↔ ∃ (x l c : Nat), tb[x]? = some (l, c) ∧ l ≠ 0 ∧ cw = codewordBits l c := by
  simp only [CodeTable.codewords, List.mem_map, List.mem_filter, decide_eq_true_eq]
  constructor
  · rintro ⟨e, ⟨he, hl⟩, rfl⟩
    obtain ⟨x, hx⟩ := List.mem_iff_getElem?.1 he
    exact ⟨x, e.1, e.2, hx, hl, rfl⟩
  · rintro ⟨x, l, c, hx, hl, rfl⟩
    exact ⟨(l, c), ⟨List.mem_of_getElem? hx, hl⟩, rfl⟩

/-- The first characters of a codeword are its highest bits (20_memory.md R55(b)). -/
theorem codewordBits_shiftRight {n l : Nat} (hn : n ≤ l) (c : Nat) :
    codewordBits n (c >>> (l - n)) = (codewordBits l c).take n := by
  rw [codewordBits, codewordBits, ← List.map_take, List.take_range, min_eq_left hn]
  refine List.map_congr_left fun j hj => ?_
  rw [List.mem_range] at hj
  rw [Nat.testBit_shiftRight]
  congr 1
  omega

theorem codewordBits_getElem? {n l : Nat} (hn : n < l) (c : Nat) :
    (codewordBits l c)[n]? = some (c.testBit (l - 1 - n)) := by
  simp [codewordBits, hn]

/-- The bit that is read becomes the rightmost character of the walk (R130). -/
theorem codewordBits_append_bit (n v : Nat) (b : Bool) :
    codewordBits (n + 1) (v <<< 1 ||| b.toNat) = codewordBits n v ++ [b] := by
  simp only [codewordBits, List.range_succ, List.map_append, List.map_singleton]
  congr 1
  · refine List.map_congr_left fun j hj => ?_
    rw [List.mem_range] at hj
    have hindex : n + 1 - 1 - j = n - 1 - j + 1 := by omega
    rw [hindex, Nat.testBit_or, Nat.testBit_shiftLeft]
    cases b <;> simp [Nat.testBit_succ]
  · cases b <;> simp

/-- The walk matches a codeword only where its bits are one. -/
theorem CodeTable.symbolOf_eq_none {tb : CodeTable} {n v : Nat} (hn : n ≠ 0)
    (h : ∀ cw ∈ tb.codewords, cw ≠ codewordBits n v) : tb.symbolOf n v = none := by
  refine List.findIdx?_eq_none_iff.2 fun e he => decide_eq_false ?_
  rintro ⟨rfl, rfl⟩
  obtain ⟨x, hx⟩ := List.mem_iff_getElem?.1 he
  exact h _ (CodeTable.mem_codewords.2 ⟨x, e.1, e.2, hx, hn, rfl⟩) rfl

/-- The walk is pending only where its bits are the beginning of a codeword. -/
theorem CodeTable.pending_eq_false {tb : CodeTable} {n v : Nat} (h : ∀ cw ∈ tb.codewords, ¬ codewordBits n v <+: cw) :
    tb.pending n v = false := by
  refine List.any_eq_false.2 fun e he hpending => ?_
  obtain ⟨hlt, rfl⟩ := of_decide_eq_true hpending
  obtain ⟨x, hx⟩ := List.mem_iff_getElem?.1 he
  refine h _ (CodeTable.mem_codewords.2 ⟨x, e.1, e.2, hx, by omega, rfl⟩) ?_
  rw [codewordBits_shiftRight hlt.le]
  exact List.take_prefix _ _

/-! ## DECODE_SYM -/

/-- `s` after a walk of `n` bits, of value `v`. -/
def State.walked (s : State) (n v : Nat) : State := { s.advance n with wlen := n, wval := v }

@[simp] theorem State.walked_bitpos (s : State) (n v : Nat) : (s.walked n v).bitpos = s.bitpos + n := s.advance_bitpos n

theorem State.walked_advance (s : State) (n v m : Nat) :
    (s.walked n v).advance m = { s.advance (n + m) with wlen := n, wval := v } := by
  rw [← State.advance_advance]
  rfl

/-- What is presented depends on the BitCursor and the source alone. -/
theorem State.Presents.congr {s t : State} {bits : List Bool} (h : s.Presents bits) (heq : t.bitSource = s.bitSource) :
    t.Presents bits := by
  have hcursor := h.cursor.congr heq
  obtain ⟨-, hcnt, hunread⟩ := h
  simp only [State.bitSource, Prod.mk.injEq] at heq
  obtain ⟨-, hc, hp, hs, hl, -⟩ := heq
  refine ⟨hcursor, hc ▸ hcnt, ?_⟩
  rw [← hunread]
  simp only [State.unread, State.bitpos, State.streamBit, hc, hp, hs, hl]

/-- READBITS takes one bit (20_memory.md R55(a)). -/
theorem readBits_bit {b : Bool} {s : State} {rest : List Bool} (h : s.Presents (b :: rest)) :
    readBits 1 s = .ok b.toNat (s.advance 1) ∧ (s.advance 1).Presents rest := by
  have hbits : fieldBits 1 b.toNat = [b] := by cases b <;> rfl
  exact readBits_field (by omega) (Bool.toNat_lt b) (by rw [hbits]; exact h)

/-- DECODE_SYM begins with an empty walk (R130). -/
theorem decodeSym_eq_walkSym {tb : CodeTable} {s : State} {bits : List Bool} (h : s.Presents bits) :
    decodeSym tb s = walkSym tb 15 (s.walked 0 0) ∧ (s.walked 0 0).Presents bits := by
  have hstay : s.advance 0 = s := (h.cursor.eq_advance h.cnt_le (CursorOnly.refl s) rfl).symm
  have hroot : s.walked 0 0 = { s with wlen := 0, wval := 0 } := by rw [State.walked, hstay]
  rw [hroot]
  exact ⟨rfl, h.congr rfl⟩

/-- Inside a codeword of a sound table the walk goes on (R130). -/
theorem decodeSym_walks {tb : CodeTable} {x l c n : Nat} {s : State} {rest : List Bool} (htb : tb.sound = true)
    (hx : tb[x]? = some (l, c)) (hn : n < l) (h : s.Presents ((codewordBits l c).take n ++ rest)) :
    decodeSym tb s = walkSym tb (15 - n) (s.walked n (c >>> (l - n))) ∧
      (s.walked n (c >>> (l - n))).Presents rest := by
  obtain ⟨hl15, hfits⟩ := CodeTable.sound_bounds htb hx (by omega)
  induction n generalizing rest with
  | zero =>
    have hroot : c >>> (l - 0) = 0 := by rw [Nat.shiftRight_eq_div_pow]; exact Nat.div_eq_of_lt hfits
    rw [hroot]
    exact decodeSym_eq_walkSym h
  | succ n ih =>
    have hleft : l - n = l - (n + 1) + 1 := by omega
    have hturns : 15 - n = 15 - (n + 1) + 1 := by omega
    have hchar : l - 1 - n = l - (n + 1) := by omega
    rw [List.take_add_one, codewordBits_getElem? (by omega), hchar, Option.toList_some, List.append_assoc] at h
    obtain ⟨hwalk, hhere⟩ := ih (by omega) h
    obtain ⟨hread, hnext⟩ := readBits_bit hhere
    have hval : (c >>> (l - n)) <<< 1 ||| (c.testBit (l - (n + 1))).toNat = c >>> (l - (n + 1)) := by
      rw [hleft]
      exact shiftRight_succ_shiftLeft_or_testBit _ c
    rw [State.walked_advance] at hread hnext
    refine ⟨?_, hnext.congr rfl⟩
    rw [hwalk, hturns, walkSym_succ, hread, Res.bind_ok]
    dsimp only
    rw [hval, CodeTable.symbolOf_start htb hx (by omega) hn, CodeTable.pending_start hx hn]
    rfl

/-- A walk that ends inside a codeword has not ended DECODE_SYM, and bears the bits read so far (R130). -/
theorem decodeSym_inside {tb : CodeTable} {s : State} {w rest : List Bool} (htb : tb.sound = true)
    (h : s.Presents (w ++ rest)) (hw : tb.endsInside w) :
    ∃ k v, decodeSym tb s = walkSym tb (k + 1) (s.walked w.length v) ∧ (s.walked w.length v).Presents rest ∧
      codewordBits w.length v = w := by
  obtain rfl | ⟨cw, hcw, hprefix, hne⟩ := hw
  · obtain ⟨hwalk, hhere⟩ := decodeSym_eq_walkSym (tb := tb) h
    exact ⟨14, 0, hwalk, hhere, rfl⟩
  · obtain ⟨x, l, c, hx, hl, rfl⟩ := CodeTable.mem_codewords.1 hcw
    have htake := List.prefix_iff_eq_take.1 hprefix
    have hlt : w.length < l := by
      have hle := hprefix.length_le
      rw [codewordBits_length] at hle
      refine lt_of_le_of_ne hle fun heq => hne ?_
      rw [htake, heq, List.take_of_length_le (by simp)]
    obtain ⟨hl15, -⟩ := CodeTable.sound_bounds htb hx hl
    rw [htake] at h
    obtain ⟨hwalk, hhere⟩ := decodeSym_walks htb hx hlt h
    have hturns : 15 - w.length = 14 - w.length + 1 := by omega
    refine ⟨14 - w.length, _, ?_, hhere, ?_⟩
    · rw [hwalk, hturns]
    · rw [codewordBits_shiftRight hlt.le, ← htake]

/-- The bit that leaves the code ends DECODE_SYM with CorruptHuffmanCode, and is the last one read (R131). -/
theorem decodeSym_leaves {tb : CodeTable} {s : State} {w rest : List Bool} {b : Bool} (htb : tb.sound = true)
    (h : s.Presents (w ++ b :: rest)) (hw : tb.leaves w b) :
    ∃ v, decodeSym tb s = .raised (State.raise .corruptHuffmanCode (s.walked (w.length + 1) v)) := by
  obtain ⟨hinside, hout⟩ := hw
  have hends : tb.endsInside w := hinside.imp_right fun ⟨cw, hcw, hprefix⟩ =>
    ⟨cw, hcw, hprefix, fun heq => (hout cw hcw).1 (heq ▸ List.prefix_append w [b])⟩
  obtain ⟨k, v, hwalk, hhere, hbits⟩ := decodeSym_inside htb h hends
  obtain ⟨hread, -⟩ := readBits_bit hhere
  have hnow : codewordBits (w.length + 1) (v <<< 1 ||| b.toNat) = w ++ [b] := by rw [codewordBits_append_bit, hbits]
  have hnone : tb.symbolOf (w.length + 1) (v <<< 1 ||| b.toNat) = none :=
    CodeTable.symbolOf_eq_none (Nat.succ_ne_zero _) fun cw hcw heq => (hout cw hcw).1 (by rw [heq, hnow])
  have hdead : tb.pending (w.length + 1) (v <<< 1 ||| b.toNat) = false :=
    CodeTable.pending_eq_false fun cw hcw => by rw [hnow]; exact (hout cw hcw).2
  refine ⟨v <<< 1 ||| b.toNat, ?_⟩
  rw [State.walked_advance] at hread
  rw [hwalk, walkSym_succ, hread, Res.bind_ok]
  dsimp only
  rw [hnone, hdead]
  rfl

/-- A source that ends inside a codeword ends DECODE_SYM with UnexpectedEndOfStream (R130). -/
theorem decodeSym_endsInside {tb : CodeTable} {s : State} (htb : tb.sound = true) (hs : s.CursorOk) (hcnt : s.cnt ≤ 7)
    (hw : tb.endsInside s.unread) :
    ∃ u, decodeSym tb s = .raised (State.raise .unexpectedEndOfStream u) := by
  have hpresents : s.Presents (s.unread ++ []) := ⟨hs, hcnt, (List.append_nil _).symm⟩
  obtain ⟨k, v, hwalk, hhere, -⟩ := decodeSym_inside htb hpresents hw
  have hend := State.unread_length (s.walked s.unread.length v)
  rw [hhere.unread_eq, List.length_nil] at hend
  obtain ⟨u, -, hread⟩ := readBits_raises_at_end (n := 1) hhere.cursor.readable (by omega) (by omega)
  exact ⟨u, by rw [hwalk, walkSym_succ, hread, Res.bind_raised]⟩

/-- Settles O17: the walk goes on inside a codeword, and ends with the next bit or for lack of one. -/
theorem decodeSymOutcomes : Obligations.DecodeSymOutcomes := by
  intro t s ht hs hcnt
  refine ⟨fun x l c rest hx hl hunread => ?_, fun w b rest hunread hinside hout => ?_, fun hends => ?_⟩
  · have hcode : codeword t x = some (codewordBits l c) := by simp [codeword, hx, hl]
    obtain ⟨hdec, -⟩ := decodeSym_codeword ht hcode ⟨hs, hcnt, hunread⟩
    rwa [codewordBits_length] at hdec
  · obtain ⟨v, hdec⟩ := decodeSym_leaves ht ⟨hs, hcnt, hunread⟩ ⟨hinside, hout⟩
    exact ⟨_, hdec, rfl, rfl, s.walked_bitpos (w.length + 1) v⟩
  · obtain ⟨u, hdec⟩ := decodeSym_endsInside ht hs hcnt hends
    exact ⟨_, hdec, rfl, rfl⟩

end Sys2Proof.Machine

namespace Sys2Proof.Machine

/-! # The dynamic header (42_dynamic_header.md)

BUILD is said once by whether its array is usable (`build_of_usable`, `build_of_not_usable`), and each table build by what it
leaves in the register files. A step that reads an element is its meaning where the element is whole (`step_of_fetchElement`), and the
failure of its reads where it is not (`step_of_fetchElement_raised`). -/

/-! ## The table builds (R143, R150) -/

theorem usable_iff {lens : List Nat} : usable lens = true ↔ 0 < kraft lens ∧ kraft lens ≤ 2 ^ 15 := decide_eq_true_iff

/-- BUILD accepts a usable array (41_huffman_builder.md R122, R125, R126). -/
theorem build_of_usable {lens : List Nat} (hlens : ∀ l ∈ lens, l ≤ 15) (h : usable lens = true) (s : State) :
    ∃ codes c, canonicalCodes lens = .ok (codes, c) ∧ build lens s = .ok codes { s with code := c } := by
  obtain ⟨hused, hle⟩ := usable_iff.1 h
  obtain ⟨codes, c, hcodes⟩ := (canonicalCodes_eq_ok_iff hused).2 ((codesFit_iff_kraft_le hlens).2 hle)
  exact ⟨codes, c, hcodes, build_of_canonicalCodes s hused hcodes⟩

/-- BUILD refuses every other array (41_huffman_builder.md R122, R125). -/
theorem build_of_not_usable {lens : List Nat} (hlens : ∀ l ∈ lens, l ≤ 15) (h : usable lens = false) (s : State) :
    ∃ c, build lens s = .raised (State.raise .invalidCodeLengths { s with code := c }) := by
  obtain hnone | hused := Nat.eq_zero_or_pos (kraft lens)
  · have hzero : ∀ l ∈ lens, l = 0 := fun l hl => by
      by_contra hl0
      exact absurd (kraft_pos_iff.2 ⟨l, hl, hl0⟩) (by omega)
    exact ⟨s.code, allZeroLengthsAreInvalid lens s hzero⟩
  · have hover : 2 ^ 15 < kraft lens := by
      by_contra hle
      exact absurd (usable_iff.2 ⟨hused, Nat.not_lt.1 hle⟩) (by simp [h])
    exact (oversubscribedLengthsAreInvalid lens s hlens hused).1 hover

theorem storeCodes_getElem? {w n x cx : Nat} {old : Vector (BitVec w) n} {codes : List (Option Nat)} (hx : x < n)
    (h : codes[x]? = some (some cx)) : (storeCodes old codes).toList[x]? = some (BitVec.ofNat w cx) := by
  simp [storeCodes, hx, h]

/-- A register file as wide as the longest code takes BUILD's codes whole (10_state.md R33, R35). -/
theorem holdsCodesOf_storeCodes {w n c : Nat} {lens : List Nat} {codes : List (Option Nat)} (old : Vector (BitVec w) n)
    (hused : 0 < kraft lens) (hlens : ∀ l ∈ lens, l ≤ w) (hsize : lens.length ≤ n)
    (h : canonicalCodes lens = .ok (codes, c)) :
    holdsCodesOf lens (lens.zip ((storeCodes old codes).toList.map (·.toNat))) := by
  obtain ⟨hfit, hlength, hcodes⟩ := canonicalCodes_ok hused h
  refine ⟨codes, c, h, fun x cx hx => ?_⟩
  have hxl : x < lens.length := hlength ▸ (List.getElem?_eq_some_iff.1 hx).1
  have hl : lens[x]? = some lens[x] := List.getElem?_eq_getElem hxl
  have hcode : symbolCode lens x lens[x] = some cx := Option.some.inj ((hcodes x _ hl).symm.trans hx)
  have hwidth : cx < 2 ^ w :=
    (symbolCode_lt_two_pow hfit hl hcode).trans_le (Nat.pow_le_pow_right (by omega) (hlens _ (List.getElem_mem hxl)))
  refine List.getElem?_zip_eq_some.2 ⟨by simp [hl], ?_⟩
  simp [storeCodes_getElem? (old := old) (hxl.trans_le hsize) hx, Nat.mod_eq_of_lt hwidth]

theorem State.clLens_le_seven (s : State) : ∀ l ∈ s.clLens, l ≤ 7 := by
  simp only [State.clLens, List.mem_map]
  rintro l ⟨v, -, rfl⟩
  omega

/-- BUILD_CL with a usable array (R143). -/
theorem buildCl_of_usable {s : State} (h : usable s.clLens = true) :
    ∃ codes c, buildCl s = .next { s with code := c, clCode := codes, idx := 0, phase := .clSyms } ∧
      holdsCodesOf s.clLens (s.clLens.zip (codes.toList.map (·.toNat))) := by
  obtain ⟨codes, c, hcodes, hbuild⟩ := build_of_usable s.clLens_le h s
  refine ⟨storeCodes s.clCode codes, c, ?_, ?_⟩
  · rw [buildCl, hbuild, Res.finish_ok]
  · exact holdsCodesOf_storeCodes _ (usable_iff.1 h).1 s.clLens_le_seven (by simp [State.clLens]) hcodes

theorem buildCl_of_not_usable {s : State} (h : usable s.clLens = false) :
    ∃ c, buildCl s = .next (State.raise .invalidCodeLengths { s with code := c }) := by
  obtain ⟨c, hbuild⟩ := build_of_not_usable s.clLens_le h s
  exact ⟨c, by rw [buildCl, hbuild, Res.finish_raised]⟩

/-- BUILD_LD with two usable arrays (R150). -/
theorem buildLd_of_usable {s : State} (hll : usable s.llLens = true) (hd : usable s.dLens = true) :
    ∃ llCodes dCodes c,
      buildLd s = .next { s with code := c, llCode := llCodes, dCode := dCodes, phase := .symbols } ∧
      holdsCodesOf s.llLens (s.llLens.zip (llCodes.toList.map (·.toNat))) ∧
      holdsCodesOf s.dLens (s.dLens.zip (dCodes.toList.map (·.toNat))) := by
  obtain ⟨ll, c, hllCodes, hllBuild⟩ := build_of_usable s.llLens_le hll s
  obtain ⟨d, c', hdCodes, hdBuild⟩ :=
    build_of_usable s.dLens_le hd { s with code := c, llCode := storeCodes s.llCode ll }
  refine ⟨storeCodes s.llCode ll, storeCodes s.dCode d, c', ?_, ?_, ?_⟩
  · rw [buildLd, hllBuild, Res.finish_ok]
    exact congrArg (Res.finish · _) hdBuild
  · exact holdsCodesOf_storeCodes _ (usable_iff.1 hll).1 s.llLens_le (by simpa using s.nlit_le) hllCodes
  · exact holdsCodesOf_storeCodes _ (usable_iff.1 hd).1 s.dLens_le (by simpa using s.ndist_le) hdCodes

theorem buildLd_of_not_usable {s : State} (h : usable s.llLens = false ∨ usable s.dLens = false) :
    ∃ c llCodes, buildLd s = .next (State.raise .invalidCodeLengths { s with code := c, llCode := llCodes }) := by
  cases hll : usable s.llLens with
  | false =>
    obtain ⟨c, hbuild⟩ := build_of_not_usable s.llLens_le hll s
    exact ⟨c, s.llCode, by rw [buildLd, hbuild, Res.finish_raised]⟩
  | true =>
    have hd : usable s.dLens = false := h.resolve_left (by simp [hll])
    obtain ⟨ll, c, -, hllBuild⟩ := build_of_usable s.llLens_le hll s
    obtain ⟨c', hdBuild⟩ :=
      build_of_not_usable s.dLens_le hd { s with code := c, llCode := storeCodes s.llCode ll }
    refine ⟨c', storeCodes s.llCode ll, ?_⟩
    rw [buildLd, hllBuild, Res.finish_ok]
    exact congrArg (Res.finish · _) hdBuild

/-- Settles O24: BUILD_CL by whether `cl_len` is usable. -/
theorem buildCodeLengthCodeStep : Obligations.BuildCodeLengthCodeStep := by
  intro s hquiet hbusy hp
  have hstep : step s = buildCl s := by simp [step, machineStep, hquiet, sequencerStep, hbusy, hp]
  rw [hstep]
  refine ⟨fun h => ?_, buildCl_of_not_usable⟩
  obtain ⟨codes, c, hnext, hheld⟩ := buildCl_of_usable h
  exact ⟨_, hnext, rfl, hheld⟩

/-- Settles O25: BUILD_LD by whether both views of `lens` are usable. -/
theorem buildBlockCodesStep : Obligations.BuildBlockCodesStep := by
  intro s hquiet hbusy hp
  have hstep : step s = buildLd s := by simp [step, machineStep, hquiet, sequencerStep, hbusy, hp]
  rw [hstep]
  refine ⟨fun hll hd => ?_, fun h => ?_⟩
  · obtain ⟨llCodes, dCodes, c, hnext, hllHeld, hdHeld⟩ := buildLd_of_usable hll hd
    exact ⟨_, hnext, rfl, hllHeld, hdHeld⟩
  · obtain ⟨c, llCodes, hnext⟩ := buildLd_of_not_usable h
    exact ⟨_, hnext, rfl, rfl, rfl⟩

/-! ## The tables in use (R143, R150) -/

/-- Outside PH_CL_SYMS and PH_SYMBOLS no table is in use. -/
theorem State.tablesBuilt_of_phase {s : State} (hcl : s.phase ≠ .clSyms) (hsym : s.phase ≠ .symbols) : s.TablesBuilt :=
  ⟨fun h => absurd h hcl, fun h => absurd h hsym, fun h => absurd h hsym⟩

theorem State.tablesBuilt_raise (f : Failure) (s : State) : (s.raise f).TablesBuilt :=
  State.tablesBuilt_of_phase nofun nofun

theorem WalkOnly.tablesBuilt {s t : State} (h : WalkOnly s t) (hs : s.TablesBuilt) : t.TablesBuilt := by
  obtain ⟨_, _, _, _, _, rfl⟩ := h
  exact { hs with }

/-- In PH_CL_SYMS the lengths of the block are written; the code in use is that of `cl_len`. -/
theorem State.TablesBuilt.write_lens {s : State} (hs : s.TablesBuilt) (hp : s.phase = .clSyms) (sym extra rep idx : Nat)
    (lens : Vector (BitVec 4) 320) :
    State.TablesBuilt { s with
      sym := sym, extra := extra, rep := rep, lens := lens, idx := idx
      phase := if idx = s.total then .buildLd else s.phase } := by
  by_cases hfull : idx = s.total
  · exact State.tablesBuilt_of_phase (by simp [hfull]) (by simp [hfull])
  · exact ⟨fun _ => hs.cl hp, by simp [hfull, hp], by simp [hfull, hp]⟩

theorem clRun_tablesBuilt {rep sym x : Nat} {v : BitVec 4} {s t : State} (hs : s.TablesBuilt) (hp : s.phase = .clSyms)
    (h : clRun rep v { s with sym := sym, extra := x } = .next t) : t.TablesBuilt := by
  obtain ⟨-, rfl⟩ | ⟨-, rfl⟩ := clRun_next h
  · exact State.tablesBuilt_raise _ _
  · exact hs.write_lens hp sym x rep _ _

/-- Every meaning keeps the tables in use in the phase its element is read in. -/
theorem exec_tablesBuilt {i : Instr} {s t : State} (hs : s.TablesBuilt) (hphase : i.phase = s.phase)
    (h : exec i s = .next t) : t.TablesBuilt := by
  cases exec_meaning i with
  | blockHeader f b hp hi =>
    obtain ⟨-, rfl⟩ | rfl := blockHeader_next (hi s ▸ h)
    · exact State.tablesBuilt_of_phase nofun nofun
    · exact State.tablesBuilt_raise _ _
  | counts l d c hp hi =>
    cases (hi s).symm.trans h
    exact State.tablesBuilt_of_phase nofun nofun
  | clLength v hp hi =>
    rw [hphase] at hp
    obtain ⟨-, lens, rfl⟩ := execCllen_next (hi s ▸ h)
    refine State.tablesBuilt_of_phase ?_ ?_ <;> by_cases hlast : s.cli + 1 = s.ncl <;> simp [hlast, hp]
  | codeLength v hp hi =>
    obtain ⟨-, rfl⟩ := clLiteral_next (hi s ▸ h)
    exact hs.write_lens (hphase.symm.trans hp) _ s.extra s.rep _ _
  | repeatLength x hp hi =>
    obtain rfl | ⟨v, hrun⟩ := execCl16_next (hi s ▸ h)
    · exact State.tablesBuilt_raise _ _
    · exact clRun_tablesBuilt hs (hphase.symm.trans hp) hrun
  | zeroRun sym x rep hp hi => exact clRun_tablesBuilt hs (hphase.symm.trans hp) ((hi s).symm.trans h)
  | literal b hp hi =>
    obtain rfl | ⟨-, rfl⟩ := execLit_next (hi s ▸ h)
    · exact State.tablesBuilt_raise _ _
    · exact { hs with }
  | endOfBlock hi =>
    subst hi
    obtain ⟨-, rfl⟩ | rfl := execEob_next h <;> exact State.tablesBuilt_of_phase nofun nofun
  | length n x hp hi =>
    cases (hi s).symm.trans h
    exact { hs with }
  | reservedLl n hp hi =>
    cases (hi s).symm.trans h
    exact State.tablesBuilt_raise _ _
  | distance m x hp hi =>
    obtain ⟨f, rfl⟩ | ⟨-, offset, out, rfl, -⟩ := distanceHalf_answers (hi s ▸ h)
    · exact State.tablesBuilt_raise _ _
    · exact { hs with }
  | reservedDist m hp hi =>
    cases (hi s).symm.trans h
    exact State.tablesBuilt_raise _ _

theorem buildCl_tablesBuilt {s t : State} (h : buildCl s = .next t) : t.TablesBuilt := by
  cases hcl : usable s.clLens with
  | true =>
    obtain ⟨codes, c, hnext, hheld⟩ := buildCl_of_usable hcl
    cases hnext.symm.trans h
    exact ⟨fun _ => hheld, nofun, nofun⟩
  | false =>
    obtain ⟨c, hnext⟩ := buildCl_of_not_usable hcl
    cases hnext.symm.trans h
    exact State.tablesBuilt_raise _ _

theorem buildLd_tablesBuilt {s t : State} (h : buildLd s = .next t) : t.TablesBuilt := by
  by_cases hboth : usable s.llLens = true ∧ usable s.dLens = true
  · obtain ⟨llCodes, dCodes, c, hnext, hll, hd⟩ := buildLd_of_usable hboth.1 hboth.2
    cases hnext.symm.trans h
    exact ⟨nofun, fun _ => hll, fun _ => hd⟩
  · obtain ⟨c, llCodes, hnext⟩ := buildLd_of_not_usable (s := s)
      ((not_and_or.1 hboth).imp Bool.eq_false_of_not_eq_true Bool.eq_false_of_not_eq_true)
    cases hnext.symm.trans h
    exact State.tablesBuilt_raise _ _

/-- Settles O49: a build leaves BUILD's codes, no element writes a length or a code that its own phase decodes with, and the
other phases use no table. -/
theorem stepKeepsCodeTables : Obligations.StepKeepsCodeTables := by
  intro s t hs h
  obtain ⟨c, -, hcmd⟩ | ⟨-, -, ⟨-, hcl⟩ | ⟨-, hld⟩ | ⟨-, hel⟩⟩ := step_cases h
  · obtain ⟨-, rfl⟩ | ⟨src, p, cap, -, -, -, rfl⟩ := takeHostCmd_next hcmd <;>
      exact State.tablesBuilt_of_phase nofun nofun
  · exact buildCl_tablesBuilt hcl
  · exact buildLd_tablesBuilt hld
  · exact elementStep_induct (P := State.TablesBuilt) hel hs (fun _ _ hu hscan _ => hscan.walkOnly.tablesBuilt hu)
      (fun _ u f _ _ => State.tablesBuilt_raise f u) (fun _ _ _ _ hu hi hexec => exec_tablesBuilt hu hi hexec)
      fun _ _ _ hu hi hexec => exec_tablesBuilt hu hi hexec

/-! ## The meanings (R141, R142, R145 to R148) -/

/-- Settles O20: HDR writes five registers and the phase. -/
theorem headerCountsElement : Obligations.HeaderCountsElement := fun _ _ _ _ => rfl

theorem clOrder_lt {k slot : Nat} (h : clOrder[k]? = some slot) : slot < 19 :=
  (by decide : ∀ slot ∈ clOrder, slot < 19) slot (List.mem_of_getElem? h)

/-- Reading a vector of registers after one of them was written. -/
theorem getD_setIfInBounds {w n k : Nat} {v : Vector (BitVec w) n} {x : BitVec w} {j : Nat} (hk : k < n) :
    (v.setIfInBounds k x).toList.getD j 0 = if j = k then x else v.toList.getD j 0 := by
  rw [Vector.toList_setIfInBounds, List.getD_eq_getElem?_getD, List.getD_eq_getElem?_getD]
  by_cases hj : j = k
  · simp [hj, hk]
  · simp [hj, List.getElem?_set_ne (Ne.symm hj)]

/-- Settles O22: CLLEN below the 19 entries of CL_ORDER. -/
theorem codeLengthCodeLengthElement : Obligations.CodeLengthCodeLengthElement := by
  intro s v slot hslot
  obtain ⟨hcli, rfl⟩ := List.getElem?_eq_some_iff.1 hslot
  have hroom := clOrder_lt hslot
  refine ⟨_, execCllen_eq v hcli, rfl, ?_, fun k hk => ?_⟩
  · rw [getD_setIfInBounds hroom, if_pos rfl]
  · rw [getD_setIfInBounds hroom, if_neg hk]

/-- CL0 to CL15 with an entry of `lens` at `idx` (R144, R145). -/
theorem clLiteral_of_lt {v : BitVec 4} {s : State} (h : s.idx < 320) :
    clLiteral v s = .next { s with
      sym := v.toNat, lens := s.lens.setIfInBounds s.idx v, idx := s.idx + 1
      phase := if s.idx + 1 = s.total then .buildLd else s.phase } := by
  rw [clLiteral, if_pos h, clSymEnd_eq]
  rfl

/-- Settles O26: an `idx` below `total` is one of the 320 entries of `lens`. -/
theorem codeLengthLiterals : Obligations.CodeLengthLiterals := by
  intro s i n hi hidx
  obtain ⟨hn, hexec⟩ := exec_cl_literal hi s
  have hroom : s.idx < 320 := hidx.trans_le s.total_le
  have hsym : (BitVec.ofNat 4 n).toNat = n := Nat.mod_eq_of_lt (by omega)
  exact ⟨hn, _, hexec.trans (clLiteral_of_lt hroom), by rw [hsym], fun k => getD_setIfInBounds hroom⟩

/-- A run within `total` (R146 to R148). -/
theorem clRun_of_le {rep : Nat} {v : BitVec 4} {s : State} (h : s.idx + rep ≤ s.total) :
    ∃ lens, clRun rep v s = .next { s with
        rep := rep, lens := lens, idx := s.idx + rep
        phase := if s.idx + rep = s.total then .buildLd else s.phase } ∧
      ∀ k, lens.toList.getD k 0 = if s.idx ≤ k ∧ k < s.idx + rep then v else s.lensAt k := by
  obtain ⟨t, hnext⟩ := clRun_total rep v s
  obtain ⟨hover, -⟩ | ⟨-, rfl⟩ := clRun_next hnext
  · omega
  · exact ⟨_, hnext, fun k => fillLens_get v rep s.idx k s.lens (h.trans s.total_le)⟩

/-- A run past `total` writes no length (R146 to R148). -/
theorem clRun_of_lt {rep : Nat} {v : BitVec 4} {s : State} (h : s.total < s.idx + rep) :
    clRun rep v s = .next (State.raise .invalidRunLength { s with rep := rep }) := if_pos h

/-- CL16 with nothing to repeat (R146). -/
theorem execCl16_of_idx_zero {s : State} (x : BitVec 2) (h : s.idx = 0) :
    execCl16 x s = .next (State.raise .invalidRunLength { s with sym := 16 }) := if_pos h

/-- CL16 with a length to repeat is a run of it (R146). -/
theorem execCl16_of_idx_ne_zero {s : State} (x : BitVec 2) (h : s.idx ≠ 0) :
    execCl16 x s = clRun (shortRun x.toNat) (s.lensAt (s.idx - 1)) { s with sym := 16, extra := x.toNat } := if_neg h

/-- Settles O27: nothing to repeat, or a run of the last written length. -/
theorem repeatPreviousLength : Obligations.RepeatPreviousLength := by
  intro s e
  refine ⟨fun hidx hfits => ?_, execCl16_of_idx_zero e, fun hidx hover => ?_⟩
  · obtain ⟨lens, hrun, hlens⟩ := clRun_of_le (rep := shortRun e.toNat) (v := s.lensAt (s.idx - 1))
      (s := { s with sym := 16, extra := e.toNat }) hfits
    exact ⟨_, (execCl16_of_idx_ne_zero e hidx).trans hrun, rfl, hlens⟩
  · exact (execCl16_of_idx_ne_zero e hidx).trans (clRun_of_lt hover)

/-- Settles O28: CL17 and CL18 are runs of zero. -/
theorem zeroRuns : Obligations.ZeroRuns := by
  intro s i n e rep hi
  have hexec : exec i s = clRun rep 0 { s with sym := n, extra := e } := by
    obtain ⟨x, rfl, rfl, rfl, rfl⟩ | ⟨x, rfl, rfl, rfl, rfl⟩ := hi <;> rfl
  rw [hexec]
  refine ⟨fun hfits => ?_, fun hover => clRun_of_lt hover⟩
  obtain ⟨lens, hrun, hlens⟩ := clRun_of_le (v := 0) (s := { s with sym := n, extra := e }) hfits
  exact ⟨_, hrun, rfl, hlens⟩

/-! ## A step and the element it reads -/

/-- Where the phase has an element to read, the step of a running session reads it (44_stream_control.md R192). -/
theorem step_eq_elementStep {s : State} (hs : s.Running) (h : fetchElement s ≠ .stop .noStepEnabled) :
    step s = elementStep s := by
  simp only [step, machineStep, hs.quiet, sequencerStep, hs.busy, if_true]
  cases hp : s.phase with
  | blockHdr | dynCounts | clLens | clSyms | symbols => rfl
  | idle | buildCl | buildLd | done | fault => exact absurd (by simp only [fetchElement, hp]) h

/-- A whole element that no distance element follows is executed (44_stream_control.md R192). -/
theorem step_of_fetchElement {s t u : State} {i : Instr} (hs : s.Running) (h : fetchElement s = .ok i u)
    (hl : i.isLength = false) (hexec : exec i u = .next t) : step s = .next t := by
  rw [step_eq_elementStep hs (by simp [h]), elementStep, h, Res.finish_ok, hexec, hl]
  rfl

/-- An element that cannot be read ends the step with the failure (60_exceptions.md R214). -/
theorem step_of_fetchElement_raised {s u : State} (hs : s.Running) (h : fetchElement s = .raised u) :
    step s = .next u := by
  rw [step_eq_elementStep hs (by simp [h]), elementStep, h, Res.finish_raised]

theorem step_failsWith {s u : State} {f : Failure} (hs : s.Running) (h : fetchElement s = .raised (u.raise f)) :
    failsWith f (step s) := ⟨_, step_of_fetchElement_raised hs h, rfl, rfl⟩

theorem State.Running.presents {s : State} {bits : List Bool} (hs : s.Running) (h : s.unread = bits) :
    s.Presents bits := ⟨hs.inv.cursorOk hs.busy, (hs.inv.atRest hs.busy).cnt_le, h⟩

/-! ## A source that ends inside an element (60_exceptions.md R221) -/

/-- The micro-operation meets the end of the source. -/
def Res.RunsOut {α : Type} (r : Res α) : Prop := ∃ u, r = .raised (State.raise .unexpectedEndOfStream u)

/-- Of a read and what follows it one runs out, where the source has fewer bits left than both need. -/
theorem readBits_bind_runsOut {α : Type} {f : Nat → State → Res α} {m n : Nat} {s : State} (hs : s.Readable)
    (hm : m ≤ 16) (hlen : s.unread.length < m + n) (hf : ∀ v u, u.Readable → u.unread.length < n → (f v u).RunsOut) :
    ((readBits m s).bind f).RunsOut := by
  have hgoes := readBits_goes hs hm
  cases h : readBits m s with
  | ok v u =>
    rw [h] at hgoes
    have hless := hgoes.unread_length_le
    exact hf v u hgoes.readable (by omega)
  | raised t =>
    obtain ⟨u, -, rfl⟩ := readBits_raised h
    exact ⟨u, rfl⟩
  | stop x => exact (h ▸ hgoes).elim
  | refuse x => exact (h ▸ hgoes).elim

/-- A read of more bits than the source has left runs out, whatever follows it. -/
theorem readBits_bind_runsOut_of_lt {α : Type} {f : Nat → State → Res α} {m : Nat} {s : State} (hs : s.Readable)
    (hm : m ≤ 16) (hlen : s.unread.length < m) : ((readBits m s).bind f).RunsOut :=
  readBits_bind_runsOut (n := 0) hs hm hlen fun _ _ _ h => absurd h (Nat.not_lt_zero _)

theorem fetchHdr_runsOut {s : State} (hs : s.Readable) (h : s.unread.length < 14) : (fetchHdr s).RunsOut :=
  readBits_bind_runsOut (m := 5) (n := 9) hs (by omega) h fun _ _ hu h =>
    readBits_bind_runsOut (m := 5) (n := 4) hu (by omega) h fun _ _ hu h =>
      readBits_bind_runsOut_of_lt hu (by omega) h

theorem fetchCllen_runsOut {s : State} (hs : s.Readable) (h : s.unread.length < 3) : (fetchCllen s).RunsOut :=
  readBits_bind_runsOut_of_lt hs (by omega) h

/-! ## The fixed-width elements from the stream bits (R141, R142) -/

theorem fieldValue_lt (bs : List Bool) : fieldValue bs < 2 ^ bs.length := by
  induction bs with
  | nil => exact Nat.one_pos
  | cons b bs ih =>
    have hb := Bool.toNat_lt b
    rw [fieldValue, List.length_cons, Nat.pow_succ]
    omega

/-- An integer field has the bits it was read from (30_encoding.md R72). -/
theorem fieldBits_fieldValue (bs : List Bool) : fieldBits bs.length (fieldValue bs) = bs := by
  induction bs with
  | nil => rfl
  | cons b bs ih =>
    have hhead : (b.toNat + 2 * fieldValue bs).testBit 0 = b := by
      cases b <;> simp [Nat.testBit_zero, Nat.add_mod]
    have htail : ∀ k, (b.toNat + 2 * fieldValue bs).testBit (k + 1) = (fieldValue bs).testBit k := fun k => by
      have hb := Bool.toNat_lt b
      rw [Nat.testBit_succ, show (b.toNat + 2 * fieldValue bs) / 2 = fieldValue bs by omega]
    calc fieldBits (bs.length + 1) (b.toNat + 2 * fieldValue bs)
        = (b.toNat + 2 * fieldValue bs).testBit 0 :: fieldBits bs.length (fieldValue bs) := by
          simp only [fieldBits, List.range_succ_eq_map, List.map_cons, List.map_map, Function.comp_def, Nat.succ_eq_add_one,
            htail]
      _ = b :: bs := by rw [hhead, ih]

/-- `w` bits are an integer field of width `w`. -/
theorem field_of_length {bs : List Bool} {w : Nat} (h : bs.length = w) :
    fieldBits w (fieldValue bs) = bs ∧ fieldValue bs < 2 ^ w := by
  subst h
  exact ⟨fieldBits_fieldValue bs, fieldValue_lt bs⟩

theorem fetchElement_dynCounts {s : State} (hp : s.phase = .dynCounts) : fetchElement s = fetchHdr s := by
  simp only [fetchElement, hp]

theorem fetchElement_clLens {s : State} (hp : s.phase = .clLens) : fetchElement s = fetchCllen s := by
  simp only [fetchElement, hp]

theorem fetchElement_clSyms {s : State} (hp : s.phase = .clSyms) : fetchElement s = fetchCl s := by
  simp only [fetchElement, hp]

theorem fetchElement_symbols {s : State} (hp : s.phase = .symbols) : fetchElement s = fetchLl s := by
  simp only [fetchElement, hp]

/-- Settles O21: 14 bits are the three fields of HDR, and fewer run out. -/
theorem headerCountsStep : Obligations.HeaderCountsStep := by
  intro s hs hp
  refine ⟨fun l d c rest hl hd hc hunread => ?_, fun hshort => ?_⟩
  · obtain ⟨hlBits, hlLt⟩ := field_of_length hl
    obtain ⟨hdBits, hdLt⟩ := field_of_length hd
    obtain ⟨hcBits, hcLt⟩ := field_of_length hc
    have hpresents : s.Presents (fieldBits 5 (fieldValue l) ++ (fieldBits 5 (fieldValue d) ++
        (fieldBits 4 (fieldValue c) ++ rest))) :=
      hs.presents (by rw [hlBits, hdBits, hcBits, hunread, List.append_assoc, List.append_assoc])
    have hfetch := (fetchElement_dynCounts hp).trans (fetchHdr_fields hlLt hdLt hcLt hpresents)
    exact step_of_fetchElement hs hfetch rfl rfl
  · obtain ⟨u, hu⟩ := fetchHdr_runsOut (hs.inv.cursorOk hs.busy).readable hshort
    exact step_failsWith hs ((fetchElement_dynCounts hp).trans hu)

/-- Settles O23: 3 bits are the field of CLLEN, and fewer run out; in its phase `cli` is an index of CL_ORDER. -/
theorem codeLengthCodeLengthStep : Obligations.CodeLengthCodeLengthStep := by
  intro s hs hp
  refine ⟨fun a b c rest hunread => ?_, fun hshort => ?_⟩
  · obtain ⟨hbits, hlt⟩ := field_of_length (bs := [a, b, c]) (w := 3) rfl
    have hpresents : s.Presents (fieldBits 3 (fieldValue [a, b, c]) ++ rest) := hs.presents (by rw [hbits, hunread]; rfl)
    have hcli : s.cli < clOrder.length := (hs.inv.cl_lens hp).trans_le s.ncl_le
    have hslot : [16, 17, 18, 0, 8, 7, 9, 6, 10, 5, 11, 4, 12, 3, 13, 2, 14, 1, 15].getD s.cli 0 = clOrder[s.cli] :=
      List.getD_eq_getElem clOrder 0 hcli
    rw [hslot, ← hp]
    exact step_of_fetchElement hs ((fetchElement_clLens hp).trans (fetchCllen_field hlt hpresents)) rfl
      (execCllen_eq _ (s := s.advance 3) hcli)
  · obtain ⟨u, hu⟩ := fetchCllen_runsOut (hs.inv.cursorOk hs.busy).readable hshort
    exact step_failsWith hs ((fetchElement_clLens hp).trans hu)

/-! ## The code-length and the literal/length symbols that fail (R144, R146, 60_exceptions.md R221) -/

/-- In a running session DECODE_SYM takes a codeword and leaves the walk as empty as it was (41_huffman_builder.md R130). -/
theorem decodeSym_codeword_of_running {tb : CodeTable} {x : Nat} {s : State} {bs rest : List Bool} (hs : s.Running)
    (htb : tb.sound = true) (hcode : codeword tb x = some bs) (h : s.unread = bs ++ rest) :
    decodeSym tb s = .ok x (s.advance bs.length) ∧ (s.advance bs.length).Presents rest := by
  have hdec := decodeSym_codeword htb hcode (hs.presents h)
  rwa [(hs.inv.atRest hs.busy).walk_eq] at hdec

/-- Settles O29: the check for CL16 stands between its codeword and its extra bits. -/
theorem repeatWithNothingWrittenFails : Obligations.RepeatWithNothingWrittenFails := by
  intro s l c rest hs hp hidx htb hentry hl hunread
  have hcode : codeword s.clTable 16 = some (codewordBits l c) := by simp only [codeword, hentry, if_neg hl]
  obtain ⟨hsym, -⟩ := decodeSym_codeword_of_running hs htb hcode hunread
  have hfetch : fetchCl s = .raised (State.raise .invalidRunLength (s.advance (codewordBits l c).length)) := by
    rw [fetchCl, hsym, Res.bind_ok]
    exact if_pos ⟨rfl, hidx⟩
  exact ⟨_, step_of_fetchElement_raised hs ((fetchElement_clSyms hp).trans hfetch), rfl, rfl, rfl⟩

/-- A phase that reads a symbol, and its alphabet (30_encoding.md R75). -/
def ReadsSymbol (s : State) (a : Alphabet) : Prop := (s.phase = .clSyms ∧ a = .cl) ∨ (s.phase = .symbols ∧ a = .ll)

/-- The symbol is decoded first. -/
theorem fetchElement_of_decodeSym_raised {s u : State} {a : Alphabet} (ha : ReadsSymbol s a)
    (h : decodeSym (tableOf s a) s = .raised u) : fetchElement s = .raised u := by
  obtain ⟨hp, rfl⟩ | ⟨hp, rfl⟩ := ha
  · have hcl : decodeSym s.clTable s = .raised u := h
    rw [fetchElement_clSyms hp, fetchCl, hcl, Res.bind_raised]
  · have hll : decodeSym s.llTable s = .raised u := h
    rw [fetchElement_symbols hp, fetchLl, hll, Res.bind_raised]

/-- The width of the extra-bits field after a symbol (30_encoding.md R76 to R78). -/
def extraWidth : Alphabet → Nat → Nat
  | .cl => clExtraWidth
  | .ll => llExtraWidth
  | .d => distExtraWidth

theorem extraWidth_le (a : Alphabet) (n : Nat) : extraWidth a n ≤ 16 :=
  match a with
  | .cl => clExtraWidth_le n
  | .ll => llExtraWidth_le n
  | .d => distExtraWidth_le n

/-- A layout has the width that the decoder reads after the symbol. -/
theorem layout_width {i : Instr} {a : Alphabet} {n w e : Nat} (h : i.layout = .coded a n w e) : w = extraWidth a n := by
  have hstmt := statement_of_instr i
  simp only [Laws.Encoding.Statement, h] at hstmt
  cases a with
  | cl | ll | d =>
    obtain ⟨-, hw, -⟩ := hstmt
    exact hw

/-- The extra bits are read next, but for CL16 with nothing to repeat (R146). -/
theorem fetchElement_extra_runsOut {s u : State} {a : Alphabet} {n : Nat} (ha : ReadsSymbol s a)
    (hrepeat : ¬ (a = .cl ∧ n = 16 ∧ u.idx = 0)) (h : decodeSym (tableOf s a) s = .ok n u) (hu : u.Readable)
    (hshort : u.unread.length < extraWidth a n) : (fetchElement s).RunsOut := by
  have hread : ∀ f : Nat → State → Res Instr, ((readBits (extraWidth a n) u).bind f).RunsOut := fun _ =>
    readBits_bind_runsOut_of_lt hu (extraWidth_le a n) hshort
  obtain ⟨hp, rfl⟩ | ⟨hp, rfl⟩ := ha
  · have hcl : decodeSym s.clTable s = .ok n u := h
    rw [fetchElement_clSyms hp, fetchCl, hcl, Res.bind_ok, if_neg fun hn => hrepeat ⟨rfl, hn⟩]
    exact hread _
  · have hll : decodeSym s.llTable s = .ok n u := h
    rw [fetchElement_symbols hp, fetchLl, hll, Res.bind_ok]
    exact hread _

/-- Settles O59: the failures of DECODE_SYM, and after it a read of extra bits that runs out. -/
theorem symbolStepFailures : Obligations.SymbolStepFailures := by
  intro s a hs ha htb
  have hcursor := hs.inv.cursorOk hs.busy
  have hcnt := (hs.inv.atRest hs.busy).cnt_le
  refine ⟨fun w b rest hunread hleaves => ?_, fun hends => ?_, fun i n w e c x hi hrepeat hcode hunread hshort => ?_⟩
  · obtain ⟨v, hsym⟩ := decodeSym_leaves htb (hs.presents hunread) hleaves
    exact step_failsWith hs (fetchElement_of_decodeSym_raised ha hsym)
  · obtain ⟨u, hsym⟩ := decodeSym_endsInside htb hcursor hcnt hends
    exact step_failsWith hs (fetchElement_of_decodeSym_raised ha hsym)
  · obtain ⟨hsym, hnext⟩ := decodeSym_codeword_of_running hs htb hcode hunread
    obtain ⟨u, hu⟩ := fetchElement_extra_runsOut (u := s.advance c.length) ha hrepeat hsym hnext.cursor.readable
      (by rwa [hnext.unread_eq, ← layout_width hi])
    exact step_failsWith hs hu

end Sys2Proof.Machine

namespace Sys2Proof.Machine

/-! # The symbols of a block (43_block_symbols.md)

The step of a back-reference is the distance half at the state after the length half (`step_of_length_encoding`), whether that half
succeeds or fails. The copy is said once, byte for byte, by what it appends (`copyLoop_copies`). The length and the distance table
are each a row of adjacent ranges (`rangeStart`). Output is bounded by paying 129 bytes for each bit (`Pays`). -/

/-! ## A back-reference is one step (R163, 44_stream_control.md R192) -/

/-- What the decoder knows of a literal/length element (30_encoding.md R77). -/
theorem layout_ll {i : Instr} {n w e : Nat} (h : i.layout = .coded .ll n w e) :
    w = llExtraWidth n ∧ e < 2 ^ w ∧ llElement n e = some i := by
  have hstmt := statement_of_instr i
  simp only [Laws.Encoding.Statement, h] at hstmt
  exact hstmt.2

/-- What the decoder knows of a distance element (30_encoding.md R78). -/
theorem layout_d {j : Instr} {m w e : Nat} (h : j.layout = .coded .d m w e) :
    w = distExtraWidth m ∧ e < 2 ^ w ∧ distElement m e = some j := by
  have hstmt := statement_of_instr j
  simp only [Laws.Encoding.Statement, h] at hstmt
  exact hstmt.2

theorem layout_of_isLength {i : Instr} (h : i.isLength = true) : ∃ n w e, i.layout = .coded .ll n w e := by
  unfold Instr.isLength at h
  split at h
  · next n w e hi => exact ⟨n, w, e, hi⟩
  · cases h

theorem layout_of_isDistance {j : Instr} (h : j.isDistance = true) : ∃ m w e, j.layout = .coded .d m w e := by
  unfold Instr.isDistance at h
  split at h
  · next m w e hj => exact ⟨m, w, e, hj⟩
  · cases h

/-- `s` after a length element of `k` bits: they are consumed, and the length half of the back-reference is executed (R163). -/
def State.afterLength (s : State) (k n e : Nat) : State :=
  { s.advance k with sym := n, extra := e, length := matchLength n e }

theorem State.afterLength_advance (s : State) (k n e m : Nat) :
    (s.afterLength k n e).advance m = s.afterLength (k + m) n e := by
  rw [State.afterLength, State.afterLength, ← State.advance_advance]
  rfl

/-- A whole length element is executed, and the distance half follows in the same step (44_stream_control.md R192). -/
theorem step_of_fetchElement_length {s u v : State} {i : Instr} (hs : s.Running) (h : fetchElement s = .ok i u)
    (hl : i.isLength = true) (hexec : exec i u = .next v) : step s = distanceStep v := by
  rw [step_eq_elementStep hs (by simp [h]), elementStep, h, Res.finish_ok, hexec, hl]
  rfl

/-- Where the unread bits begin with a length element, the step is the distance half after it, on the bits that follow. -/
theorem step_of_length_encoding {s : State} {i : Instr} {n w e : Nat} {bits rest : List Bool} (hs : s.Running)
    (hp : s.phase = .symbols) (hi : i.layout = .coded .ll n w e) (hl : i.isLength = true) (htb : s.llTable.sound = true)
    (henc : encode s i = some bits) (h : s.unread = bits ++ rest) :
    step s = distanceStep (s.afterLength bits.length n e) ∧ (s.afterLength bits.length n e).Presents rest ∧
      (s.afterLength bits.length n e).AtRest := by
  obtain ⟨hw, he, helement⟩ := layout_ll hi
  obtain ⟨bs, hcode, rfl⟩ := encode_coded hi henc
  have hpresents := hs.presents h
  have hatRest := hs.inv.atRest hs.busy
  have hfetch : fetchElement s = .ok i (s.advance (bs ++ fieldBits w e).length) := by
    rw [fetchElement_symbols hp, List.length_append, fieldBits_length]
    exact fetchLl_coded hatRest (by rwa [List.append_assoc] at hpresents) he htb hcode hw helement
  obtain ⟨hscan, -, hrest⟩ := (fetchElement_scans s).of_ok hfetch
  have hhere : (s.advance (bs ++ fieldBits w e).length).Presents rest :=
    ⟨hscan.cursorOk hpresents.cursor, (hrest hatRest).cnt_le, by rw [State.advance_unread, h, List.drop_left]⟩
  exact ⟨step_of_fetchElement_length hs hfetch hl (exec_length hi hl _), hhere.congr rfl,
    ⟨hhere.cnt_le, hatRest.wlen_zero, hatRest.wval_zero⟩⟩

/-- Settles O5: the distance half reads its element where the length half left the stream. -/
theorem stepExecutesBackReference : Obligations.StepExecutesBackReference := by
  intro s i j n w e bits bits' rest hs hp hi hl hj hll hd henc henc' h
  rw [List.append_assoc] at h
  obtain ⟨hstep, hpresents, hatRest⟩ := step_of_length_encoding hs hp hi hl hll henc h
  obtain ⟨m, v, d, hlay⟩ := layout_of_isDistance hj
  obtain ⟨hv, hd', helement⟩ := layout_d hlay
  obtain ⟨bs, hcode, rfl⟩ := encode_coded hlay henc'
  rw [List.append_assoc] at hpresents
  have hfetch := fetchDist_coded hatRest hpresents hd' hd hcode hv helement
  rw [hstep, distanceStep, hfetch, Res.finish_ok, State.afterLength_advance, List.length_append, fieldBits_length]
  rfl

/-! ## A distance half that fails (R163, 60_exceptions.md R221) -/

theorem distanceStep_failsWith {s u : State} {f : Failure} (h : fetchDist s = .raised (u.raise f)) :
    failsWith f (distanceStep s) := ⟨_, by rw [distanceStep, h, Res.finish_raised], rfl, rfl⟩

/-- The symbol is decoded first. -/
theorem fetchDist_of_decodeSym_raised {s u : State} (h : decodeSym s.dTable s = .raised u) : fetchDist s = .raised u := by
  rw [fetchDist, h, Res.bind_raised]

/-- The extra bits are read next. -/
theorem fetchDist_extra_runsOut {s u : State} {m : Nat} (h : decodeSym s.dTable s = .ok m u) (hu : u.Readable)
    (hshort : u.unread.length < distExtraWidth m) : (fetchDist s).RunsOut := by
  rw [fetchDist, h, Res.bind_ok]
  exact readBits_bind_runsOut_of_lt hu (distExtraWidth_le m) hshort

/-- Settles O60: the failures of DECODE_SYM after the length half, and after it a read of extra bits that runs out. -/
theorem distanceHalfFailures : Obligations.DistanceHalfFailures := by
  intro s i n w e bits u hs hp hi hl hll hd henc h
  obtain ⟨hstep, hpresents, -⟩ := step_of_length_encoding hs hp hi hl hll henc h
  rw [hstep]
  refine ⟨fun p b rest hu hleaves => ?_, fun hends => ?_, fun j m v d c x hj hcode hu hshort => ?_⟩
  · obtain ⟨_, hsym⟩ := decodeSym_leaves hd (hu ▸ hpresents) hleaves
    exact distanceStep_failsWith (fetchDist_of_decodeSym_raised hsym)
  · obtain ⟨_, hsym⟩ := decodeSym_endsInside hd hpresents.cursor hpresents.cnt_le (hpresents.unread_eq ▸ hends)
    exact distanceStep_failsWith (fetchDist_of_decodeSym_raised hsym)
  · obtain ⟨hsym, hnext⟩ := decodeSym_codeword hd hcode (hu ▸ hpresents)
    obtain ⟨_, hout⟩ := fetchDist_extra_runsOut hsym hnext.cursor.readable
      (by rwa [hnext.unread_eq, ← (layout_d hj).1])
    exact distanceStep_failsWith hout

/-! ## Literals, the end of a block and the reserved symbols (R161, R162, R164, R167) -/

theorem State.overCap_eq_false {s : State} {n : Nat} (h : ∀ cap, s.outCap = some cap → s.olen + n ≤ cap) :
    s.overCap n = false := by
  unfold State.overCap
  split
  · rfl
  · next cap hcap => exact decide_eq_false (Nat.not_lt.2 (h cap hcap))

theorem State.overCap_eq_true {s : State} {n cap : Nat} (hcap : s.outCap = some cap) (h : cap < s.olen + n) :
    s.overCap n = true := by
  simp only [State.overCap, hcap, h, decide_true]

/-- LIT within the capacity (R161). -/
theorem execLit_of_fits {b : BitVec 8} {s : State} (h : s.overCap 1 = false) :
    execLit b s = .next (State.append b { s with sym := b.toNat }) :=
  if_neg (ne_true_of_eq_false h)

/-- LIT at the capacity (R173). -/
theorem execLit_of_overCap {b : BitVec 8} {s : State} (h : s.overCap 1 = true) :
    execLit b s = .next (State.raise .outputCapacityExceeded { s with sym := b.toNat }) := if_pos h

/-- Settles O30: the append writes one byte at `olen`. -/
theorem literalAppends : Obligations.LiteralAppends := by
  intro s b
  refine ⟨fun hfits => ?_, fun cap hcap hover => execLit_of_overCap (State.overCap_eq_true hcap hover)⟩
  exact ⟨_, execLit_of_fits (State.overCap_eq_false hfits), rfl, Memory.read_write_same s.out s.olen b,
    fun a ha => Memory.read_write_other s.out s.olen a b ha⟩

/-- Settles O31: the two branches of EOB. -/
theorem endOfBlock : Obligations.EndOfBlock := by
  intro s
  refine ⟨fun hfinal => if_pos hfinal, fun hmore => if_neg ?_⟩
  show ¬ s.bfinal = 1
  rw [hmore]
  decide

/-- Settles O36: each reserved symbol writes its register and raises. -/
theorem reservedSymbolsFail : Obligations.ReservedSymbolsFail := fun _ => ⟨rfl, rfl, rfl, rfl⟩

/-! ## The tables (R165, R168) -/

theorem isLength_iff {i : Instr} {n w e : Nat} (hi : i.layout = .coded .ll n w e) :
    i.isLength = true ↔ 257 ≤ n ∧ n ≤ 285 := by
  unfold Instr.isLength
  rw [hi]
  exact decide_eq_true_iff

/-- Every row of the length table stays within 3 to 258 (R165). -/
theorem lenBase_bounds {k e : Nat} (hk : k ≤ 28) (he : e < 2 ^ lenExtra.getD k 0) :
    3 ≤ lenBase.getD k 0 + e ∧ lenBase.getD k 0 + e ≤ 258 := by
  have hrow : ∀ k ≤ 28, 3 ≤ lenBase.getD k 0 ∧ lenBase.getD k 0 + 2 ^ lenExtra.getD k 0 ≤ 259 := by decide
  obtain ⟨hlow, hhigh⟩ := hrow k hk
  omega

/-- Settles O32: the length half, with the operands of a row of the length table. -/
theorem lengthElements : Obligations.LengthElements := by
  intro s i n w e hi hl
  obtain ⟨hw, he, -⟩ := layout_ll hi
  obtain ⟨hlow, hhigh⟩ := (isLength_iff hi).1 hl
  have hwidth : w = lenExtra.getD (n - 257) 0 := hw.trans (if_pos hlow)
  exact ⟨exec_length hi hl s, hwidth, he, lenBase_bounds (by omega) (hwidth ▸ he)⟩

/-- The first value of code `k`, where each code `j` has `2 ^ width j` values and begins where the one before it ends. -/
def rangeStart (first : Nat) (width : Nat → Nat) : Nat → Nat
  | 0 => first
  | k + 1 => rangeStart first width k + 2 ^ width k

theorem rangeStart_mono (first : Nat) (width : Nat → Nat) : Monotone (rangeStart first width) :=
  monotone_nat_of_le_succ fun _ => Nat.le_add_right _ _

/-- Adjacent ranges cover everything from the first value to the last. -/
theorem exists_range_iff {first n v : Nat} {width : Nat → Nat} :
    (first ≤ v ∧ v < rangeStart first width n) ↔ ∃ k e, k < n ∧ e < 2 ^ width k ∧ rangeStart first width k + e = v := by
  constructor
  · rintro ⟨hfirst, hlast⟩
    induction n with
    | zero => exact absurd hlast (Nat.not_lt.2 hfirst)
    | succ n ih =>
      by_cases hv : v < rangeStart first width n
      · obtain ⟨k, e, hk, hrest⟩ := ih hv
        exact ⟨k, e, hk.trans (Nat.lt_succ_self n), hrest⟩
      · rw [rangeStart] at hlast
        exact ⟨n, v - rangeStart first width n, Nat.lt_succ_self n, by omega, by omega⟩
  · rintro ⟨k, e, hk, he, rfl⟩
    have hbegin : first ≤ rangeStart first width k := rangeStart_mono first width (Nat.zero_le k)
    have hend : rangeStart first width k + 2 ^ width k ≤ rangeStart first width n := rangeStart_mono first width hk
    omega

/-- A value of a range lies before every later range. -/
theorem rangeStart_add_lt {first k k' e : Nat} {width : Nat → Nat} (hk : k < k') (he : e < 2 ^ width k) :
    rangeStart first width k + e < rangeStart first width k' := by
  have hnext : rangeStart first width k + 2 ^ width k ≤ rangeStart first width k' := rangeStart_mono first width hk
  omega

/-- Adjacent ranges have no value in common. -/
theorem range_unique {first k k' e e' : Nat} {width : Nat → Nat} (he : e < 2 ^ width k) (he' : e' < 2 ^ width k')
    (h : rangeStart first width k + e = rangeStart first width k' + e') : k = k' ∧ e = e' := by
  rcases Nat.lt_trichotomy k k' with hlt | rfl | hgt
  · have := rangeStart_add_lt (first := first) hlt he
    omega
  · exact ⟨rfl, Nat.add_left_cancel h⟩
  · have := rangeStart_add_lt (first := first) hgt he'
    omega

/-- The length codes 257 to 284 are adjacent ranges from 3 to 258 (R165). -/
theorem lenBase_eq_rangeStart :
    (∀ k < 28, lenBase.getD k 0 = rangeStart 3 (fun k => lenExtra.getD k 0) k) ∧
      rangeStart 3 (fun k => lenExtra.getD k 0) 28 = 259 := by decide

/-- The distance codes are adjacent ranges from 1 to 32768 (R168). -/
theorem distBase_eq_rangeStart :
    (∀ m < 30, distBase.getD m 0 = rangeStart 1 (fun m => distExtra.getD m 0) m) ∧
      rangeStart 1 (fun m => distExtra.getD m 0) 30 = 32769 := by decide

/-- What holds of adjacent ranges holds of a table whose bases are where they begin. -/
theorem ranges_of_table {base width : Nat → Nat} {first last n : Nat} (hbase : ∀ k < n, base k = rangeStart first width k)
    (hlast : rangeStart first width n = last + 1) :
    (∀ v, first ≤ v ∧ v ≤ last ↔ ∃ k e, k < n ∧ e < 2 ^ width k ∧ base k + e = v) ∧
      ∀ k k' e e', k < n → k' < n → e < 2 ^ width k → e' < 2 ^ width k' → base k + e = base k' + e' → k = k' ∧ e = e' := by
  refine ⟨fun v => ?_, fun k k' e e' hk hk' he he' h => ?_⟩
  · have hupper : v ≤ last ↔ v < rangeStart first width n := by rw [hlast, Nat.lt_succ_iff]
    rw [hupper, exists_range_iff]
    refine exists_congr fun k => exists_congr fun e => and_congr_right fun hk => ?_
    rw [hbase k hk]
  · rw [hbase k hk, hbase k' hk'] at h
    exact range_unique he he' h

/-- Settles O37: both tables list adjacent ranges. -/
theorem lengthAndDistanceCodesCover : Obligations.LengthAndDistanceCodesCover := by
  obtain ⟨hlenCover, hlenUnique⟩ := ranges_of_table lenBase_eq_rangeStart.1 lenBase_eq_rangeStart.2
  obtain ⟨hdistCover, hdistUnique⟩ := ranges_of_table distBase_eq_rangeStart.1 distBase_eq_rangeStart.2
  exact ⟨⟨rfl, rfl⟩, ⟨rfl, rfl⟩, hlenCover, hdistCover, hlenUnique, hdistUnique, rfl, rfl⟩

/-! ## The distance half (R170, R171, R173) -/

section DistanceHalf

variable {s : State} {i : Instr} {m w e d : Nat}

/-- `s` with the operands of a distance element latched. -/
def State.withDistance (s : State) (m e d : Nat) : State := { s with dsym := m, extra := e, distance := d }

/-- A distance element with a distance within the output and a copy within the capacity is the copy (R171). -/
theorem exec_distance_copies (hi : i.layout = .coded .d m w e) (hm : m ≤ 29) (hd : d = distBase.getD m 0 + e)
    (hle : d ≤ s.olen) (hfits : s.overCap s.length = false) :
    exec i s = (copy s.length d (s.withDistance m e d)).finish fun _ t => .next t := by
  subst hd
  rw [exec_distance hi hm s]
  exact (if_neg (Nat.not_lt.2 hle)).trans (if_neg (ne_true_of_eq_false hfits))

/-- A distance beyond the output is checked first (R170). -/
theorem exec_distance_beyond (hi : i.layout = .coded .d m w e) (hm : m ≤ 29) (hd : d = distBase.getD m 0 + e)
    (hlt : s.olen < d) : exec i s = .next ((s.withDistance m e d).raise .invalidDistance) := by
  subst hd
  rw [exec_distance hi hm s]
  exact if_pos hlt

/-- The capacity is checked next (R173). -/
theorem exec_distance_overCap (hi : i.layout = .coded .d m w e) (hm : m ≤ 29) (hd : d = distBase.getD m 0 + e)
    (hle : d ≤ s.olen) (hover : s.overCap s.length = true) :
    exec i s = .next ((s.withDistance m e d).raise .outputCapacityExceeded) := by
  subst hd
  rw [exec_distance hi hm s]
  exact (if_neg (Nat.not_lt.2 hle)).trans (if_pos hover)

end DistanceHalf

/-- Settles O34: the first check of the distance half. -/
theorem distanceBeyondOutputFails : Obligations.DistanceBeyondOutputFails :=
  fun _ _ _ _ _ _ hi hm hd hlt => exec_distance_beyond hi hm hd hlt

/-- Settles O35: the second check of the distance half. -/
theorem copyBeyondCapacityFails : Obligations.CopyBeyondCapacityFails :=
  fun _ _ _ _ _ _ _ hi hm hd hle hcap hover => exec_distance_overCap hi hm hd hle (State.overCap_eq_true hcap hover)

/-! ## The copy (R171, R172) -/

/-- A copy whose next source byte stands below `olen` goes through. Each byte it appends is the byte it was copied from, also where
the copy itself appended that one (R171). -/
theorem copyLoop_copies {base n k : Nat} {s : State} (hout : ∀ a < s.olen, (s.out.read a).isSome = true)
    (hbase : base + k < s.olen) :
    ∃ t, copyLoop base n k s = .ok () t ∧ ∀ j < n, t.out.read (s.olen + j) = t.out.read (base + k + j) := by
  induction n generalizing k s with
  | zero => exact ⟨s, rfl, nofun⟩
  | succ n ih =>
    obtain ⟨b, hb⟩ := Option.isSome_iff_exists.1 (hout (base + k) hbase)
    have hwritten : ∀ a < s.olen + 1, ((s.out.write s.olen b).read a).isSome = true := fun a ha => by
      by_cases h : a = s.olen
      · rw [h, Memory.read_write_same]; rfl
      · rw [Memory.read_write_other _ _ _ _ h]; exact hout a (by omega)
    obtain ⟨t, hcopy, hcopied⟩ := ih (k := k + 1) (s := State.append b { s with offset := k }) hwritten
      (by show base + (k + 1) < s.olen + 1; omega)
    have hkept := (copyLoop_grows hcopy).out_kept
    refine ⟨t, by rw [copyLoop_succ, hb]; exact hcopy, fun j hj => ?_⟩
    cases j with
    | zero =>
      have hnew : t.out.read s.olen = some b := (hkept s.olen (Nat.lt_succ_self _)).trans (Memory.read_write_same _ _ _)
      have hold : t.out.read (base + k) = some b :=
        (hkept (base + k) (Nat.lt_succ_of_lt hbase)).trans ((Memory.read_write_other _ _ _ _ hbase.ne).trans hb)
      exact hnew.trans hold.symm
    | succ j =>
      have hnext := hcopied j (by omega)
      rw [State.append_olen] at hnext
      rwa [show s.olen + (j + 1) = s.olen + 1 + j by omega, show base + k + (j + 1) = base + (k + 1) + j by omega]

/-- Bytes that each repeat the one `d` before them are periodic (R172). -/
theorem read_periodic {m : Memory} {p d n k : Nat} (hd : 0 < d) (hdp : d ≤ p)
    (h : ∀ j < n, m.read (p + j) = m.read (p - d + j)) (hk : k < n) : m.read (p + k) = m.read (p - d + k % d) := by
  induction k using Nat.strong_induction_on with
  | _ k ih =>
    rw [h k hk]
    by_cases hlt : k < d
    · rw [Nat.mod_eq_of_lt hlt]
    · rw [Nat.mod_eq_sub_mod (Nat.not_lt.1 hlt), ← ih (k - d) (by omega) (by omega)]
      congr 1
      omega

/-- Settles O33: the copy repeats the last `distance` bytes. -/
theorem distanceElementsCopy : Obligations.DistanceElementsCopy := by
  intro s i m w e d hi hm hd hle hcap hlength hout
  have hpos : 0 < d := by
    have hbase : ∀ m ≤ 29, 0 < distBase.getD m 0 := by decide
    have := hbase m hm
    omega
  have hbegin : s.olen - d + 0 < s.olen := by omega
  obtain ⟨t, hcopy, hcopied⟩ := copyLoop_copies (n := s.length) (s := s.withDistance m e d) hout hbegin
  obtain ⟨ht, hkept⟩ := copyLoop_ok hcopy
  refine ⟨t, ?_, ?_, fun k hk => ?_, hkept⟩
  · rw [exec_distance_copies hi hm hd hle (State.overCap_eq_false hcap)]
    exact congrArg (Res.finish · _) hcopy
  · rw [if_neg hlength.ne', Nat.zero_add] at ht
    exact ht
  · have hmod := Nat.mod_lt k hpos
    have hsource : s.olen - d + k % d < s.olen := by omega
    exact (read_periodic hpos hle hcopied hk).trans (hkept _ (.inl hsource))

/-! ## Output is bounded (R174) -/

/-- From `s` to `t` at most 129 bytes are appended for each bit that is consumed. -/
def Pays (s t : State) : Prop := t.olen + 129 * s.bitpos ≤ s.olen + 129 * t.bitpos

theorem Grows.pays {s t : State} (h : Grows s t) (holen : t.olen = s.olen) : Pays s t := by
  have := h.bitpos_le
  unfold Pays
  omega

theorem WalkOnly.olen_eq {s t : State} (h : WalkOnly s t) : t.olen = s.olen := by
  obtain ⟨_, _, _, _, _, rfl⟩ := h
  rfl

theorem WalkOnly.length_eq {s t : State} (h : WalkOnly s t) : t.length = s.length := by
  obtain ⟨_, _, _, _, _, rfl⟩ := h
  rfl

/-- A failure while reading appends nothing. -/
theorem Scan.pays_raise {s u : State} (h : Scan s u) (f : Failure) : Pays s (u.raise f) :=
  (h.grows.raise f).pays h.walkOnly.olen_eq

/-- What an element appends: nothing, or in PH_SYMBOLS one byte or a match (R161, R163). -/
theorem exec_olen {i : Instr} {s t : State} (h : exec i s = .next t) :
    t.olen = s.olen ∨ (i.phase = .symbols ∧ (t.olen = s.olen + 1 ∨ t.olen = s.olen + s.length)) := by
  cases exec_meaning i with
  | blockHeader f b hp hi => obtain ⟨-, rfl⟩ | rfl := blockHeader_next (hi s ▸ h) <;> exact .inl rfl
  | counts l d c hp hi => cases (hi s).symm.trans h; exact .inl rfl
  | clLength v hp hi => obtain ⟨-, lens, rfl⟩ := execCllen_next (hi s ▸ h); exact .inl rfl
  | codeLength v hp hi => obtain ⟨-, rfl⟩ := clLiteral_next (hi s ▸ h); exact .inl rfl
  | repeatLength x hp hi =>
    obtain rfl | ⟨v, hrun⟩ := execCl16_next (hi s ▸ h)
    · exact .inl rfl
    · obtain ⟨-, rfl⟩ | ⟨-, rfl⟩ := clRun_next hrun <;> exact .inl rfl
  | zeroRun sym x rep hp hi => obtain ⟨-, rfl⟩ | ⟨-, rfl⟩ := clRun_next ((hi s).symm.trans h) <;> exact .inl rfl
  | literal b hp hi =>
    obtain rfl | ⟨-, rfl⟩ := execLit_next (hi s ▸ h)
    · exact .inl rfl
    · exact .inr ⟨hp, .inl rfl⟩
  | endOfBlock hi =>
    subst hi
    obtain ⟨-, rfl⟩ | rfl := execEob_next h <;> exact .inl rfl
  | length n x hp hi => cases (hi s).symm.trans h; exact .inl rfl
  | reservedLl n hp hi => cases (hi s).symm.trans h; exact .inl rfl
  | distance m x hp hi =>
    obtain ⟨f, rfl⟩ | ⟨-, offset, out, rfl, -⟩ := distanceHalf_answers (hi s ▸ h)
    · exact .inl rfl
    · exact .inr ⟨hp, .inr rfl⟩
  | reservedDist m hp hi => cases (hi s).symm.trans h; exact .inl rfl

/-- A literal/length element that no distance follows appends at most one byte (R161, R162, R164). -/
theorem exec_olen_le_succ {i : Instr} {s t : State} (hi : (∃ b, i = .lit b) ∨ i = .eob ∨ MeansLength i)
    (hl : i.isLength = false) (h : exec i s = .next t) : t.olen ≤ s.olen + 1 := by
  obtain ⟨b, rfl⟩ | rfl | ⟨hlen, -⟩ | ⟨-, n, hn⟩ := hi
  · obtain rfl | ⟨-, rfl⟩ := execLit_next h
    · exact Nat.le_succ _
    · exact le_rfl
  · obtain ⟨-, rfl⟩ | rfl := execEob_next h <;> exact Nat.le_succ _
  · simp [hl] at hlen
  · cases (hn s).symm.trans h
    exact Nat.le_succ _

/-- A length element gives a length of at most 258 (R165). -/
theorem exec_isLength {i : Instr} (hl : i.isLength = true) (s : State) :
    ∃ n e len, len ≤ 258 ∧ exec i s = .next { s with sym := n, extra := e, length := len } := by
  obtain ⟨n, w, e, hi⟩ := layout_of_isLength hl
  obtain ⟨hexec, -, -, -, hlen⟩ := lengthElements s i n w e hi hl
  exact ⟨n, e, _, hlen, hexec⟩

theorem Res.Goes.of_ok {α : Type} {r : Res α} {P : α → State → Prop} {v : α} {t : State} (h : r.Goes P)
    (hr : r = .ok v t) : P v t := by
  rw [hr] at h
  exact h

/-- A symbol and its extra bits are at least one bit. -/
theorem symbol_reads {tb : CodeTable} {x w e : Nat} {s u v : State} (hs : s.Readable) (hsym : decodeSym tb s = .ok x u)
    (hextra : readBits w u = .ok e v) : x < tb.length ∧ Reads 1 s v := by
  obtain ⟨hx, hread⟩ := (decodeSym_goes hs).of_ok hsym
  have hread' := (readBits_goes hread.readable (readBits_ok hextra).1).of_ok hextra
  exact ⟨hx, (hread.trans hread').mono (Nat.le_add_right _ _)⟩

theorem fetchLl_ok {s u : State} {i : Instr} (hs : s.Readable) (h : fetchLl s = .ok i u) :
    Reads 1 s u ∧ ((∃ b, i = .lit b) ∨ i = .eob ∨ MeansLength i) := by
  obtain ⟨x, v, hsym, h⟩ := Res.bind_eq_ok.1 h
  obtain ⟨e, w, hextra, h⟩ := Res.bind_eq_ok.1 h
  obtain ⟨hx, hread⟩ := symbol_reads hs hsym hextra
  obtain ⟨i', hi', hmeans⟩ := llElement_cases e (hx.trans_le (by simpa using s.nlit_le))
  rw [hi'] at h
  cases h
  exact ⟨hread, hmeans⟩

theorem fetchDist_reads {s u : State} {j : Instr} (hs : s.Readable) (h : fetchDist s = .ok j u) : Reads 1 s u := by
  obtain ⟨m, v, hsym, h⟩ := Res.bind_eq_ok.1 h
  obtain ⟨e, w, hextra, h⟩ := Res.bind_eq_ok.1 h
  obtain ⟨-, hread⟩ := symbol_reads hs hsym hextra
  unfold answer at h
  split at h <;> cases h
  exact hread

/-- A distance half pays for 258 bytes with its own bit and one of the length half (R174). -/
theorem distanceStep_pays {s t : State} (hs : s.Readable) (hlen : s.length ≤ 258) (h : distanceStep s = .next t) :
    t.olen + 129 * s.bitpos ≤ s.olen + 129 * (t.bitpos + 1) := by
  obtain h | ⟨j, u, hj, hexec⟩ := distanceStep_next h
  · obtain ⟨u, f, hscan, rfl⟩ := (fetchDist_scans s).of_raised h
    have hpays := hscan.pays_raise f
    unfold Pays at hpays
    omega
  · have hread := fetchDist_reads hs hj
    have holen := hread.frame.olen_eq
    have hlength := hread.frame.length_eq
    have hbits := hread.bitpos_le.trans (exec_grows hexec).bitpos_le
    have hexec_olen := exec_olen hexec
    omega

/-- In PH_SYMBOLS a literal pays with one bit, a back-reference with two (R174). -/
theorem symbols_pays {s t : State} (hs : s.Readable) (hp : s.phase = .symbols) (h : elementStep s = .next t) :
    Pays s t := by
  obtain h | ⟨i, u, v, hi, hexec, hend⟩ := elementStep_next h
  · obtain ⟨u, f, hscan, rfl⟩ := (fetchElement_scans s).of_raised h
    exact hscan.pays_raise f
  rw [fetchElement_symbols hp] at hi
  obtain ⟨hread, hmeans⟩ := fetchLl_ok hs hi
  have holen := hread.frame.olen_eq
  have hbits := hread.bitpos_le
  obtain ⟨hl, rfl⟩ | ⟨hl, hdist⟩ := hend
  · have hone := exec_olen_le_succ hmeans hl hexec
    have hgrows := (exec_grows hexec).bitpos_le
    unfold Pays
    omega
  · obtain ⟨n, e, len, hlen, hv⟩ := exec_isLength hl u
    cases hv.symm.trans hexec
    have hhalf : t.olen + 129 * u.bitpos ≤ u.olen + 129 * (t.bitpos + 1) :=
      distanceStep_pays (s := { u with sym := n, extra := e, length := len })
        ⟨hread.readable.cnt_le, hread.readable.pos_le, hread.readable.src_dense⟩ hlen hdist
    unfold Pays
    omega

/-- An element that is read in another phase appends nothing. -/
theorem elementStep_olen {s t : State} (hp : s.phase ≠ .symbols) (h : elementStep s = .next t) : t.olen = s.olen :=
  elementStep_induct (P := fun u => u.phase ≠ .symbols ∧ u.olen = s.olen) (Q := fun u => u.olen = s.olen) h ⟨hp, rfl⟩
    (fun _ _ ⟨hu, holen⟩ hscan _ =>
      ⟨by rw [hscan.walkOnly.phase_eq]; exact hu, hscan.walkOnly.olen_eq.trans holen⟩)
    (fun _ _ _ ⟨_, holen⟩ hscan => hscan.walkOnly.olen_eq.trans holen)
    (fun _ _ _ _ hu _ _ => hu)
    fun _ _ _ ⟨hu, holen⟩ hphase hexec => by
      obtain hsame | ⟨hsym, -⟩ := exec_olen hexec
      · exact hsame.trans holen
      · exact absurd (hphase.symm.trans hsym) hu

/-- Every step of the sequencer pays for its output. -/
theorem step_pays {s t : State} (hs : s.Readable) (hquiet : s.hostCmd = none) (h : step s = .next t) : Pays s t := by
  have hgrows := step_grows hquiet h
  obtain ⟨c, hc, -⟩ | ⟨-, -, ⟨-, hcl⟩ | ⟨-, hld⟩ | ⟨-, hel⟩⟩ := step_cases h
  · simp [hquiet] at hc
  · obtain ⟨c, rfl⟩ | ⟨codes, c, -, rfl⟩ := buildCl_next hcl <;> exact hgrows.pays rfl
  · obtain ⟨c, ll, rfl⟩ | ⟨ll, d, c, c', -, -, rfl⟩ := buildLd_next hld <;> exact hgrows.pays rfl
  · by_cases hp : s.phase = .symbols
    · exact symbols_pays hs hp hel
    · exact hgrows.pays (elementStep_olen hp hel)

theorem State.CursorOk.start_le_bitpos {s : State} (h : s.CursorOk) : 8 * s.startPos ≤ s.bitpos := by
  have := h.cnt_fetched
  have := h.start_le
  unfold State.bitpos
  omega

theorem State.CursorOk.bitpos_le {s : State} (h : s.CursorOk) : s.bitpos ≤ 8 * s.srcLen := by
  have := h.pos_le
  unfold State.bitpos
  omega

/-- A session that takes a step is not IDLE after it (10_state.md R27). -/
theorem step_status_ne_idle {s t : State} (hquiet : s.hostCmd = none) (h : step s = .next t) : t.status ≠ .idle := by
  obtain ⟨hbusy, ⟨u, f, rfl⟩ | ⟨hstatus, -⟩ | ⟨-, hstatus, -⟩⟩ := sequencer_statusStep hquiet h
  · exact nofun
  · rw [hstatus, hbusy]; exact nofun
  · rw [hstatus]; exact nofun

/-- Settles O55: a step pays for its output, and the bits that can pay are those of the source. -/
theorem outputIsBounded : Obligations.OutputIsBounded := by
  intro s t hs hbound h
  have hcursor := hs.inv.cursorOk hs.busy
  have hpays := step_pays hcursor.readable hs.quiet h
  have hstart := (step_grows hs.quiet h).startPos_eq
  have hbegin := hcursor.start_le_bitpos
  have hend := ((stepKeepsInvariant s t hs.inv h).cursor (step_status_ne_idle hs.quiet h)).bitpos_le
  unfold Pays at hpays
  rw [hstart]
  omega

end Sys2Proof.Machine

namespace Sys2Proof.Machine

/-! # Stream control (44_stream_control.md)

A step is the host's transaction where one waits (`step_eq_takeHostCmd`), and otherwise the meaning of the element that the decoder
reads (`step_eq_elementStep_of_fetchElement`). Which element that is follows from the stream bits by the rules of decoding. -/

/-! ## A step is the element it reads (R192) -/

/-- Where the decoder reads an element in a session, the step does (R192, 30_encoding.md R75). -/
theorem step_eq_elementStep_of_fetchElement {s t : State} {i : Instr} (hquiet : s.hostCmd = none)
    (hbusy : s.status = .busy) (h : fetchElement s = .ok i t) : step s = elementStep s := by
  simp only [step, machineStep, hquiet, sequencerStep, hbusy, if_true]
  cases hp : s.phase with
  | blockHdr | dynCounts | clLens | clSyms | symbols => rfl
  | idle | buildCl | buildLd | done | fault => simp [fetchElement, hp] at h

/-- Unless a distance element follows, the step is the element's meaning, whatever that answers (R192). -/
theorem elementStep_eq_exec {s t : State} {i : Instr} (h : fetchElement s = .ok i t) (hl : i.isLength = false) :
    elementStep s = exec i t := by
  rw [elementStep, h, Res.finish_ok, hl]
  cases exec i t <;> rfl

/-- Settles O4: the decoder reads the element back from its encoding, and no distance element follows it. -/
theorem stepExecutesEncodedElement : Obligations.StepExecutesEncodedElement := by
  intro s i bits rest hs hwf hphase hl hdist htables henc hunread
  have hfetch : fetchElement s = .ok i (s.advance bits.length) := by
    have := fetch_of_encode (hs.inv.atRest hs.busy) hwf hphase htables henc (hs.presents hunread)
    rwa [hdist] at this
  rw [step_eq_elementStep_of_fetchElement hs.quiet hs.busy hfetch, elementStep_eq_exec hfetch hl]

/-- Settles O2: what both halves of a step do with the element they have read. -/
theorem stepRunsDecodedElement : Obligations.StepRunsDecodedElement := by
  refine ⟨fun s t i hquiet hbusy h => ?_, fun u v j h => congrArg (Res.finish · _) h⟩
  rw [step_eq_elementStep_of_fetchElement hquiet hbusy h]
  exact congrArg (Res.finish · _) h

/-- Settles O41: without a transaction of the host the sequencer looks at `status` first. -/
theorem noStepWithoutSession : Obligations.NoStepWithoutSession := by
  intro s hquiet hbusy
  rw [step, machineStep, hquiet]
  exact if_neg hbusy

/-! ## The block header (R193) -/

theorem blockHeader_dynamic (f : BitVec 1) (s : State) :
    blockHeader f 2 s = .next { s with bfinal := f, btype := 2, phase := .dynCounts } := rfl

theorem blockHeader_unsupported {b : BitVec 2} (hb : b ≠ 2) (f : BitVec 1) (s : State) :
    blockHeader f b s = .next (State.raise .unsupportedBlockType { s with bfinal := f, btype := b }) := if_neg hb

/-- Settles O18: the four elements are the block header with their own `btype`. -/
theorem blockHeaderElements : Obligations.BlockHeaderElements := fun s f =>
  ⟨blockHeader_dynamic f s, blockHeader_unsupported (b := 0) (by decide) f s,
    blockHeader_unsupported (b := 1) (by decide) f s, blockHeader_unsupported (b := 3) (by decide) f s⟩

theorem fetchElement_blockHdr {s : State} (hp : s.phase = .blockHdr) : fetchElement s = fetchBlk s := by
  simp only [fetchElement, hp]

theorem fetchBlk_runsOut {s : State} (hs : s.Readable) (h : s.unread.length < 3) : (fetchBlk s).RunsOut :=
  readBits_bind_runsOut (m := 1) (n := 2) hs (by omega) h fun _ _ hu h => readBits_bind_runsOut_of_lt hu (by omega) h

/-- `btype` is read least significant bit first, so the accepted value 2 is the bits 0, 1 (20_memory.md R55(a)). -/
theorem btype_eq_two_iff (a b : Bool) : BitVec.ofNat 2 (fieldValue [a, b]) = 2 ↔ a = false ∧ b = true := by
  revert a b
  decide

/-- The block header of three stream bits. -/
theorem fetchBlk_bits {f a b : Bool} {s : State} {rest : List Bool} (h : s.Presents (f :: a :: b :: rest)) :
    fetchBlk s = .ok (blkElement (BitVec.ofNat 1 f.toNat) (BitVec.ofNat 2 (fieldValue [a, b]))) (s.advance 3) := by
  obtain ⟨hbit, hnext⟩ := readBits_bit h
  obtain ⟨hbits, hlt⟩ := field_of_length (bs := [a, b]) (w := 2) rfl
  have hfield : (s.advance 1).Presents (fieldBits 2 (fieldValue [a, b]) ++ rest) := by rw [hbits]; exact hnext
  obtain ⟨hread, -⟩ := readBits_field (by omega) hlt hfield
  rw [fetchBlk, hbit, Res.bind_ok, hread, Res.bind_ok, State.advance_advance]

/-- Settles O19: three bits are the two fields of the block header, and fewer run out. -/
theorem blockHeaderStep : Obligations.BlockHeaderStep := by
  intro s hs hp
  refine ⟨fun f a b rest hunread => ?_, fun hshort => ?_⟩
  · have hfetch := (fetchElement_blockHdr hp).trans (fetchBlk_bits (hs.presents hunread))
    rw [step_eq_elementStep_of_fetchElement hs.quiet hs.busy hfetch,
      elementStep_eq_exec hfetch (blkElement_not_length _ _), exec_blkElement]
    by_cases hdynamic : a = false ∧ b = true
    · rw [(btype_eq_two_iff a b).2 hdynamic, blockHeader_dynamic, if_pos hdynamic]
    · rw [blockHeader_unsupported (mt (btype_eq_two_iff a b).1 hdynamic), if_neg hdynamic]
  · obtain ⟨u, hu⟩ := fetchBlk_runsOut (hs.inv.cursorOk hs.busy).readable hshort
    exact step_failsWith hs ((fetchElement_blockHdr hp).trans hu)

/-- Settles O1: the decoder run on each of the seven words. -/
theorem fixedFormatWordsDecode : Obligations.FixedFormatWordsDecode := by
  refine ⟨?_, ?_, ?_, ?_, ?_, ?_, ?_⟩ <;> decide

/-! ## The transactions of the host (R190, R191) -/

theorem step_eq_takeHostCmd {s : State} {c : HostCmd} (h : s.hostCmd = some c) : step s = takeHostCmd c s := by
  rw [step, machineStep, h]

/-- At START nothing is buffered, so the bit position is the first bit of byte `start_pos` (R190). -/
theorem sessionStart_bitpos (src : List Byte) (p : Nat) (cap : Option Nat) (s : State) :
    (sessionStart src p cap s).bitpos = 8 * p := rfl

/-- Settles O42: the two refusals of START, and the session it begins. -/
theorem startBeginsASession : Obligations.StartBeginsASession := by
  intro s src p cap hcmd
  have hstep : step s = hostStart src p cap s := step_eq_takeHostCmd hcmd
  rw [hstep]
  refine ⟨fun hbusy => if_pos hbusy, fun hbusy hp => (if_neg hbusy).trans (if_pos hp), fun hbusy hp => ?_⟩
  refine ⟨sessionStart src p cap s, (if_neg hbusy).trans (if_neg (Nat.not_lt.2 hp)), rfl, fun a => Memory.read_ofBytes src a,
    sessionStart_bitpos src p cap s, ?_⟩
  rw [State.unread_length, sessionStart_srcLen, sessionStart_bitpos, Nat.mul_sub]

/-- Settles O43: a RESET is never refused, and writes what R40 gives a value. -/
theorem resetAbandonsTheSession : Obligations.ResetAbandonsTheSession := fun s hcmd =>
  ⟨hostReset s, step_eq_takeHostCmd hcmd, rfl, rfl, rfl, rfl, rfl, rfl, rfl, rfl, rfl⟩

/-! ## The result (R197, R198) -/

/-- The bytes of a memory with the addresses `a`, `a + 1`, and so on, in address order. -/
theorem Memory.bytes_getElem?_of_addresses {m : Memory} {a n : Nat} (h : m.map (·.1) = List.range' a n) (k : Nat) :
    (m.map (·.2))[k]? = m.read (a + k) := by
  induction m generalizing a n k with
  | nil => rfl
  | cons c m ih =>
    cases n with
    | zero => simp at h
    | succ n =>
      obtain ⟨rfl, hrest⟩ : c.1 = a ∧ m.map (·.1) = List.range' (a + 1) n := by simpa [List.range'_succ] using h
      cases k with
      | zero => simp [Memory.read]
      | succ k => simpa [Memory.read, Nat.add_right_comm, Nat.add_assoc] using ih hrest k

/-- A dense memory lists its bytes in address order (20_memory.md R52). -/
theorem Memory.bytes_of_dense {m : Memory} {n : Nat} (h : m.dense n = true) :
    (m.map (·.2)).length = n ∧ ∀ a, (m.map (·.2))[a]? = m.read a := by
  have haddresses : m.map (·.1) = List.range n := of_decide_eq_true h
  refine ⟨?_, fun a => ?_⟩
  · rw [List.length_map, ← List.length_map (f := (·.1)), haddresses, List.length_range]
  · rw [List.range_eq_range'] at haddresses
    rw [Memory.bytes_getElem?_of_addresses haddresses, Nat.zero_add]

/-- With less than a byte buffered `pos` is the first byte boundary at or after the bit position (10_state.md R22, R197). -/
theorem State.pos_eq_bitpos_ceil {s : State} (hs : s.Readable) (hcnt : s.cnt ≤ 7) : s.pos = (s.bitpos + 7) / 8 := by
  have := hs.cnt_le
  unfold State.bitpos
  omega

/-- Settles O45: OUT is dense, and at DONE less than a byte is buffered. -/
theorem collectedResult : Obligations.CollectedResult := by
  intro s hs
  refine ⟨fun hdone => ?_, fun hdone => if_neg hdone⟩
  have hread := (hs.cursor (by rw [hdone]; decide)).readable
  have hcnt := hs.cnt_boundary (by rw [hdone]; decide)
  refine ⟨s.out.map (·.2), ?_, Memory.bytes_of_dense hs.out_dense⟩
  rw [← State.pos_eq_bitpos_ceil hread hcnt]
  exact if_pos hdone

end Sys2Proof.Machine

namespace Sys2Proof.Machine

/-! # Fault entry is precise (60_exceptions.md)

A meaning that appends to OUT leaves `status` as it is, so the step that ends in FAULT has appended nothing. -/

/-- OUT and its length are in `t` as they are in `s` (20_memory.md R52). -/
def KeepsOut (s t : State) : Prop := t.out = s.out ∧ t.olen = s.olen

theorem KeepsOut.refl (s : State) : KeepsOut s s := ⟨rfl, rfl⟩

theorem KeepsOut.trans {s t u : State} (h : KeepsOut s t) (h' : KeepsOut t u) : KeepsOut s u :=
  ⟨h'.1.trans h.1, h'.2.trans h.2⟩

theorem WalkOnly.keepsOut {s t : State} (h : WalkOnly s t) : KeepsOut s t := by
  obtain ⟨_, _, _, _, _, rfl⟩ := h
  exact ⟨rfl, rfl⟩

/-- A meaning writes OUT or `status`, never both: its checks precede its writes (R214). -/
theorem exec_keepsOut_or_status {i : Instr} {s t : State} (h : exec i s = .next t) :
    KeepsOut s t ∨ t.status = s.status := by
  cases exec_meaning i with
  | blockHeader f b hp hi => obtain ⟨-, rfl⟩ | rfl := blockHeader_next (hi s ▸ h) <;> exact .inl ⟨rfl, rfl⟩
  | counts l d c hp hi => cases (hi s).symm.trans h; exact .inl ⟨rfl, rfl⟩
  | clLength v hp hi => obtain ⟨-, lens, rfl⟩ := execCllen_next (hi s ▸ h); exact .inl ⟨rfl, rfl⟩
  | codeLength v hp hi => obtain ⟨-, rfl⟩ := clLiteral_next (hi s ▸ h); exact .inl ⟨rfl, rfl⟩
  | repeatLength x hp hi =>
    obtain rfl | ⟨v, hrun⟩ := execCl16_next (hi s ▸ h)
    · exact .inl ⟨rfl, rfl⟩
    · obtain ⟨-, rfl⟩ | ⟨-, rfl⟩ := clRun_next hrun <;> exact .inl ⟨rfl, rfl⟩
  | zeroRun sym x rep hp hi => obtain ⟨-, rfl⟩ | ⟨-, rfl⟩ := clRun_next ((hi s).symm.trans h) <;> exact .inl ⟨rfl, rfl⟩
  | literal b hp hi =>
    obtain rfl | ⟨-, rfl⟩ := execLit_next (hi s ▸ h)
    · exact .inl ⟨rfl, rfl⟩
    · exact .inr rfl
  | endOfBlock hi =>
    subst hi
    obtain ⟨-, rfl⟩ | rfl := execEob_next h <;> exact .inl ⟨rfl, rfl⟩
  | length n x hp hi => cases (hi s).symm.trans h; exact .inl ⟨rfl, rfl⟩
  | reservedLl n hp hi => cases (hi s).symm.trans h; exact .inl ⟨rfl, rfl⟩
  | distance m x hp hi =>
    obtain ⟨f, rfl⟩ | ⟨-, offset, out, rfl, -⟩ := distanceHalf_answers (hi s ▸ h)
    · exact .inl ⟨rfl, rfl⟩
    · exact .inr rfl
  | reservedDist m hp hi => cases (hi s).symm.trans h; exact .inl ⟨rfl, rfl⟩

/-- Reads and the length half leave OUT alone, so it is still as it was when the last meaning fails. -/
theorem elementStep_keepsOut_of_fault {s t : State} (hbusy : s.status = .busy) (h : elementStep s = .next t)
    (hfault : t.status = .fault) : KeepsOut s t := by
  refine elementStep_induct (P := fun u => u.status = .busy ∧ KeepsOut s u)
    (Q := fun t => t.status = .fault → KeepsOut s t) h ⟨hbusy, .refl s⟩ ?_ ?_ ?_ ?_ hfault
  · rintro u v hu hscan -
    obtain ⟨_, _, _, _, _, rfl⟩ := hscan.walkOnly
    exact hu
  · exact fun u v f ⟨_, hout⟩ hscan _ => hout.trans hscan.walkOnly.keepsOut
  · exact fun _ _ _ _ hu _ _ => hu
  · rintro i u v ⟨hu, hout⟩ - hexec hv
    obtain hkeeps | hstatus := exec_keepsOut_or_status hexec
    · exact hout.trans hkeeps
    · simp [hstatus, hu] at hv

theorem step_keepsOut_of_fault {s t : State} (hquiet : s.hostCmd = none) (h : step s = .next t)
    (hfault : t.status = .fault) : KeepsOut s t := by
  obtain ⟨c, hc, -⟩ | ⟨-, hbusy, ⟨-, hcl⟩ | ⟨-, hld⟩ | ⟨-, hel⟩⟩ := step_cases h
  · simp [hquiet] at hc
  · obtain ⟨c, rfl⟩ | ⟨codes, c, -, rfl⟩ := buildCl_next hcl <;> exact ⟨rfl, rfl⟩
  · obtain ⟨c, ll, rfl⟩ | ⟨ll, d, c, c', -, -, rfl⟩ := buildLd_next hld <;> exact ⟨rfl, rfl⟩
  · exact elementStep_keepsOut_of_fault hbusy hel hfault

/-- A step of the sequencer ends in FAULT by fault entry only (R214). -/
theorem step_eq_raise_of_fault {s t : State} (hquiet : s.hostCmd = none) (h : step s = .next t)
    (hfault : t.status = .fault) : ∃ u f, t = State.raise f u := by
  obtain ⟨hbusy, hstep⟩ := sequencer_statusStep hquiet h
  cases hstep with
  | raises u f ht => exact ⟨u, f, ht⟩
  | goesOn hstatus => simp [hstatus, hbusy] at hfault
  | ends _ hdone => simp [hdone] at hfault

/-- Settles O38: the step that faults has kept OUT, and ends in fault entry, which writes `phase` and `err`. -/
theorem faultIsPrecise : Obligations.FaultIsPrecise := by
  intro s t hquiet h hfault
  obtain ⟨hout, holen⟩ := step_keepsOut_of_fault hquiet h hfault
  obtain ⟨u, f, rfl⟩ := step_eq_raise_of_fault hquiet h hfault
  exact ⟨hout, holen, rfl, by simp⟩

end Sys2Proof.Machine

namespace Sys2Proof.Machine

/-! # An earlier session is forgotten (70_reset_and_hazards.md)

Two sessions of one START differ at first in the registers that START leaves unspecified, and in nothing else
(`State.withLeftovers`). The step of a phase reads of these only what the block has written since, which the two have in common
(`State.SameLive`). So `State.Alike`, both together, is kept by every step, and the host sees the same. -/

/-! ## What an earlier session leaves (R242) -/

/-- `s` with every register that START leaves unspecified (10_state.md R40) as `d` has it. -/
def State.withLeftovers (s d : State) : State :=
  { s with
    bfinal := d.bfinal, btype := d.btype, hlit := d.hlit, hdist := d.hdist, hclen := d.hclen, cli := d.cli, idx := d.idx
    sym := d.sym, extra := d.extra, rep := d.rep, length := d.length, dsym := d.dsym, distance := d.distance
    offset := d.offset, code := d.code, clLen := d.clLen, clCode := d.clCode, lens := d.lens, llCode := d.llCode
    dCode := d.dCode }

/-- `r` with the leftovers of `d` in the state it answers. -/
def Res.withLeftovers {α : Type} (d : State) : Res α → Res α
  | .ok v s => .ok v (s.withLeftovers d)
  | .raised s => .raised (s.withLeftovers d)
  | .stop x => .stop x
  | .refuse x => .refuse x

section Reads

variable (d : State)

theorem Res.bind_withLeftovers {α β : Type} (r : Res α) {f : α → State → Res β}
    (hf : ∀ v t, f v (t.withLeftovers d) = (f v t).withLeftovers d) :
    (r.withLeftovers d).bind f = (r.bind f).withLeftovers d := by
  cases r with
  | ok v t => exact hf v t
  | raised t | stop x | refuse x => rfl

theorem Res.ite_withLeftovers {α : Type} {c : Prop} [Decidable c] {a b a' b' : Res α} (ha : a' = a.withLeftovers d)
    (hb : b' = b.withLeftovers d) : (if c then a' else b') = (if c then a else b).withLeftovers d := by
  split
  · exact ha
  · exact hb

theorem fetchByte_withLeftovers (s : State) : fetchByte (s.withLeftovers d) = (fetchByte s).withLeftovers d := by
  refine Res.ite_withLeftovers d rfl ?_
  have hsrc : (s.withLeftovers d).src.read (s.withLeftovers d).pos = s.src.read s.pos := rfl
  rw [hsrc]
  cases s.src.read s.pos <;> rfl

theorem refill_withLeftovers (n k : Nat) (s : State) :
    refill n k (s.withLeftovers d) = (refill n k s).withLeftovers d := by
  induction k generalizing s with
  | zero => rfl
  | succ k ih =>
    rw [refill_succ, refill_succ]
    refine Res.ite_withLeftovers d ?_ rfl
    rw [fetchByte_withLeftovers]
    exact Res.bind_withLeftovers d _ fun b t => ih { t with acc := t.acc ||| (b.setWidth 24 <<< t.cnt), cnt := t.cnt + 8 }

theorem readBits_withLeftovers (n : Nat) (s : State) :
    readBits n (s.withLeftovers d) = (readBits n s).withLeftovers d := by
  have hpeek : peekBits n (s.withLeftovers d) = (peekBits n s).withLeftovers d := by
    refine Res.ite_withLeftovers d rfl ?_
    rw [refill_withLeftovers]
    exact Res.bind_withLeftovers d _ fun _ _ => rfl
  rw [readBits, hpeek]
  exact Res.bind_withLeftovers d _ fun _ _ => rfl

theorem readBits_bind_withLeftovers {α : Type} (n : Nat) (s : State) {f : Nat → State → Res α}
    (hf : ∀ v t, f v (t.withLeftovers d) = (f v t).withLeftovers d) :
    (readBits n (s.withLeftovers d)).bind f = ((readBits n s).bind f).withLeftovers d := by
  rw [readBits_withLeftovers]
  exact Res.bind_withLeftovers d _ hf

theorem walkSym_withLeftovers (tb : CodeTable) (k : Nat) (s : State) :
    walkSym tb k (s.withLeftovers d) = (walkSym tb k s).withLeftovers d := by
  induction k generalizing s with
  | zero => rfl
  | succ k ih =>
    rw [walkSym_succ, walkSym_succ]
    refine readBits_bind_withLeftovers d 1 s fun b t => ?_
    have hlen : (t.withLeftovers d).wlen = t.wlen := rfl
    have hval : (t.withLeftovers d).wval = t.wval := rfl
    rw [hlen, hval]
    cases tb.symbolOf (t.wlen + 1) (t.wval <<< 1 ||| b) with
    | some x => rfl
    | none => exact Res.ite_withLeftovers d (ih { t with wlen := t.wlen + 1, wval := t.wval <<< 1 ||| b }) rfl

theorem decodeSym_withLeftovers (tb : CodeTable) (s : State) :
    decodeSym tb (s.withLeftovers d) = (decodeSym tb s).withLeftovers d :=
  walkSym_withLeftovers d tb Config.codelenMax { s with wlen := 0, wval := 0 }

/-- Extra bits, and the element of a symbol. -/
theorem readBits_answer_withLeftovers (n : Nat) (element : Nat → Option Instr) (s : State) :
    ((readBits n (s.withLeftovers d)).bind fun e t => answer (element e) t) =
      ((readBits n s).bind fun e t => answer (element e) t).withLeftovers d :=
  readBits_bind_withLeftovers d n s fun e _ => by cases element e <;> rfl

theorem fetchBlk_withLeftovers (s : State) : fetchBlk (s.withLeftovers d) = (fetchBlk s).withLeftovers d :=
  readBits_bind_withLeftovers d 1 s fun _ t => readBits_bind_withLeftovers d 2 t fun _ _ => rfl

theorem fetchHdr_withLeftovers (s : State) : fetchHdr (s.withLeftovers d) = (fetchHdr s).withLeftovers d :=
  readBits_bind_withLeftovers d 5 s fun _ t => readBits_bind_withLeftovers d 5 t fun _ u =>
    readBits_bind_withLeftovers d 4 u fun _ _ => rfl

theorem fetchCllen_withLeftovers (s : State) : fetchCllen (s.withLeftovers d) = (fetchCllen s).withLeftovers d :=
  readBits_bind_withLeftovers d 3 s fun _ _ => rfl

end Reads

/-! ## The code of a symbol that is not used (10_state.md R33, R35) -/

/-- The table without the code values of its unused symbols. -/
def CodeTable.forgetUnused (tb : CodeTable) : CodeTable := tb.map fun e => if e.1 = 0 then (0, 0) else e

@[simp] theorem CodeTable.symbolOf_forgetUnused (tb : CodeTable) (n v : Nat) :
    tb.forgetUnused.symbolOf (n + 1) v = tb.symbolOf (n + 1) v := by
  rw [CodeTable.symbolOf, CodeTable.forgetUnused, List.findIdx?_map]
  refine congrArg (List.findIdx? · tb) (funext fun e => ?_)
  by_cases he : e.1 = 0 <;> simp [he]

@[simp] theorem CodeTable.pending_forgetUnused (tb : CodeTable) (n v : Nat) :
    tb.forgetUnused.pending n v = tb.pending n v := by
  rw [CodeTable.pending, CodeTable.forgetUnused, List.any_map]
  refine congrArg (List.any tb) (funext fun e => ?_)
  by_cases he : e.1 = 0 <;> simp [he]

theorem walkSym_forgetUnused (tb : CodeTable) (k : Nat) (s : State) : walkSym tb.forgetUnused k s = walkSym tb k s := by
  induction k generalizing s with
  | zero => rfl
  | succ k ih => simp only [walkSym_succ, CodeTable.symbolOf_forgetUnused, CodeTable.pending_forgetUnused, ih]

/-- DECODE_SYM reads the codes of used symbols only. -/
theorem decodeSym_withLeftovers_of_forgetUnused_eq {tb tb' : CodeTable} (h : tb'.forgetUnused = tb.forgetUnused)
    (s d : State) : decodeSym tb' (s.withLeftovers d) = (decodeSym tb s).withLeftovers d := by
  rw [← decodeSym_withLeftovers, decodeSym, decodeSym, ← walkSym_forgetUnused tb', h, walkSym_forgetUnused]

/-- BUILD's codes for a used symbol are those of its lengths (41_huffman_builder.md R127). -/
theorem holdsCodesOf.forgetUnused_eq {lens codes codes' : List Nat} (hsize : codes'.length = codes.length)
    (h : holdsCodesOf lens (lens.zip codes)) (h' : holdsCodesOf lens (lens.zip codes')) :
    CodeTable.forgetUnused (lens.zip codes') = CodeTable.forgetUnused (lens.zip codes) := by
  obtain ⟨built, c, hbuilt, hheld⟩ := h
  obtain ⟨built', c', hbuilt', hheld'⟩ := h'
  obtain ⟨rfl, rfl⟩ : built = built' ∧ c = c' := by simpa [hbuilt] using hbuilt'
  refine List.ext_getElem (by simp [CodeTable.forgetUnused, hsize]) fun x hx' hx => ?_
  simp only [CodeTable.forgetUnused, List.length_map, List.length_zip, lt_inf_iff] at hx hx'
  simp only [CodeTable.forgetUnused, List.getElem_map, List.getElem_zip]
  by_cases hl : lens[x] = 0
  · simp [hl]
  have hget : lens[x]? = some lens[x] := List.getElem?_eq_getElem hx.1
  have hused : 0 < kraft lens := kraft_pos_iff.2 ⟨_, List.getElem_mem hx.1, hl⟩
  obtain ⟨-, -, hcodes⟩ := canonicalCodes_ok hused hbuilt
  have hcode := hcodes x _ hget
  rw [symbolCode, if_neg hl] at hcode
  have hentry := (hheld x _ hcode).trans (hheld' x _ hcode).symm
  simp only [List.getElem?_eq_getElem, List.length_zip, lt_inf_iff, hx, hx', and_self,
    List.getElem_zip, Option.some.injEq, Prod.mk.injEq, true_and] at hentry
  rw [hentry]

/-! ## Sessions that are alike (10_state.md R42) -/

/-- The header fields that a whole dynamic block reads. -/
def SameCounts (s s' : State) : Prop := s'.bfinal = s.bfinal ∧ s'.hlit = s.hlit ∧ s'.hdist = s.hdist

/-- Of the registers that START leaves unspecified, the two states have in common what the steps from phase `p` on read before they
write it (10_state.md R42). The code tables stand apart, in `State.TablesBuilt`. -/
def SameLive (p : Phase) (s s' : State) : Prop :=
  match p with
  | .dynCounts => s'.bfinal = s.bfinal
  | .clLens => SameCounts s s' ∧ s'.hclen = s.hclen ∧ s'.clLen = s.clLen ∧ s'.cli = s.cli
  | .buildCl => SameCounts s s' ∧ s'.clLen = s.clLen
  | .clSyms =>
    SameCounts s s' ∧ s'.clLen = s.clLen ∧ s'.idx = s.idx ∧ s'.lens.toList.take s.idx = s.lens.toList.take s.idx
  | .buildLd | .symbols => s'.bfinal = s.bfinal ∧ s'.llLens = s.llLens ∧ s'.dLens = s.dLens
  | .idle | .blockHdr | .done | .fault => True

/-- The two states differ in leftovers alone, and in none that is read. -/
structure State.Alike (s s' : State) : Prop where
  leftovers : s' = s.withLeftovers s'
  live : SameLive s.phase s s'

/-- The same outcome, in states that are alike. -/
def SameOutcome (o o' : Host.Outcome State Fault Refusal) : Prop :=
  match o with
  | .next t => ∃ t', o' = .next t' ∧ t.Alike t'
  | .fault x => o' = .fault x
  | .refused x => o' = .refused x

theorem SameOutcome.ite {c : Prop} [Decidable c] {a b a' b' : Host.Outcome State Fault Refusal} (ha : SameOutcome a a')
    (hb : SameOutcome b b') : SameOutcome (if c then a else b) (if c then a' else b') := by
  split
  · exact ha
  · exact hb

/-- Two failures of one kind are alike, since a session that failed reads nothing. -/
theorem SameOutcome.raise {s s' : State} (f : Failure) (h : s' = s.withLeftovers s') :
    SameOutcome (.next (s.raise f)) (.next (s'.raise f)) :=
  ⟨_, rfl, congrArg (State.raise f) h, trivial⟩

theorem State.Alike.exists_withLeftovers {s s' : State} (h : s.Alike s') : ∃ d, s' = s.withLeftovers d :=
  ⟨s', h.leftovers⟩

theorem State.Alike.observe_eq {s s' : State} (h : s.Alike s') : observe s' = observe s := by
  rw [h.leftovers]
  rfl

theorem WalkOnly.alike_withLeftovers {s t d : State} (h : WalkOnly s t) (hs : s.Alike (s.withLeftovers d)) :
    t.Alike (t.withLeftovers d) := by
  obtain ⟨_, _, _, _, _, rfl⟩ := h
  exact ⟨rfl, hs.live⟩

/-! ## The element that is read -/

theorem State.Alike.clTable_eq {s s' : State} (h : s.Alike s') (hp : s.phase = .clSyms) (hs : s.TablesBuilt)
    (hs' : s'.TablesBuilt) : s'.clTable.forgetUnused = s.clTable.forgetUnused := by
  obtain ⟨-, hlens, -⟩ : SameLive .clSyms s s' := hp ▸ h.live
  have hp' : s'.phase = .clSyms := by rw [h.leftovers]; exact hp
  have hcl : s'.clLens = s.clLens := by rw [State.clLens, hlens]; rfl
  have hheld := hs'.cl hp'
  rw [State.clTable, hcl] at hheld ⊢
  exact holdsCodesOf.forgetUnused_eq (by simp) (hs.cl hp) hheld

theorem State.Alike.blockTables_eq {s s' : State} (h : s.Alike s') (hp : s.phase = .symbols) (hs : s.TablesBuilt)
    (hs' : s'.TablesBuilt) :
    s'.llTable.forgetUnused = s.llTable.forgetUnused ∧ s'.dTable.forgetUnused = s.dTable.forgetUnused := by
  obtain ⟨-, hll, hd⟩ : SameLive .symbols s s' := hp ▸ h.live
  have hp' : s'.phase = .symbols := by rw [h.leftovers]; exact hp
  have hllHeld := hs'.ll hp'
  have hdHeld := hs'.d hp'
  rw [State.llTable, hll] at hllHeld ⊢
  rw [State.dTable, hd] at hdHeld ⊢
  exact ⟨holdsCodesOf.forgetUnused_eq (by simp) (hs.ll hp) hllHeld,
    holdsCodesOf.forgetUnused_eq (by simp) (hs.d hp) hdHeld⟩

theorem fetchCl_withLeftovers {s d : State} (hidx : (s.withLeftovers d).idx = s.idx)
    (htable : (s.withLeftovers d).clTable.forgetUnused = s.clTable.forgetUnused) :
    fetchCl (s.withLeftovers d) = (fetchCl s).withLeftovers d := by
  rw [fetchCl, fetchCl, decodeSym_withLeftovers_of_forgetUnused_eq htable]
  cases h : decodeSym s.clTable s with
  | ok n t =>
    have hidx' : (t.withLeftovers d).idx = t.idx := by
      obtain ⟨⟨_, _, _, _, _, rfl⟩, -⟩ := decodeSym_ok h
      exact hidx
    rw [Res.withLeftovers, Res.bind_ok, Res.bind_ok, hidx']
    exact Res.ite_withLeftovers d rfl (readBits_answer_withLeftovers d _ (clElement n) t)
  | raised t | stop x | refuse x => rfl

theorem fetchLl_withLeftovers {s d : State}
    (htable : (s.withLeftovers d).llTable.forgetUnused = s.llTable.forgetUnused) :
    fetchLl (s.withLeftovers d) = (fetchLl s).withLeftovers d := by
  rw [fetchLl, decodeSym_withLeftovers_of_forgetUnused_eq htable]
  exact Res.bind_withLeftovers d _ fun n t => readBits_answer_withLeftovers d _ (llElement n) t

theorem fetchDist_withLeftovers {s d : State}
    (htable : (s.withLeftovers d).dTable.forgetUnused = s.dTable.forgetUnused) :
    fetchDist (s.withLeftovers d) = (fetchDist s).withLeftovers d := by
  rw [fetchDist, decodeSym_withLeftovers_of_forgetUnused_eq htable]
  exact Res.bind_withLeftovers d _ fun m t => readBits_answer_withLeftovers d _ (distElement m) t

theorem fetchLl_means {s t : State} {i : Instr} (h : fetchLl s = .ok i t) :
    (∃ b, i = .lit b) ∨ i = .eob ∨ MeansLength i := by
  obtain ⟨n, u, hsym, h⟩ := Res.bind_eq_ok.1 h
  obtain ⟨e, v, -, h⟩ := Res.bind_eq_ok.1 h
  obtain ⟨-, -, -, hn⟩ := decodeSym_ok hsym
  obtain ⟨i', hi', hmeans⟩ := llElement_cases e (hn.trans_le (by simpa using s.nlit_le))
  rw [hi'] at h
  cases h
  exact hmeans

theorem fetchDist_means {s t : State} {j : Instr} (h : fetchDist s = .ok j t) : MeansDistance j := by
  obtain ⟨m, u, hsym, h⟩ := Res.bind_eq_ok.1 h
  obtain ⟨e, v, -, h⟩ := Res.bind_eq_ok.1 h
  obtain ⟨-, -, -, hm⟩ := decodeSym_ok hsym
  obtain ⟨j', hj', hmeans⟩ := distElement_meansDistance e (hm.trans_le (by simpa using s.ndist_le))
  rw [hj'] at h
  cases h
  exact hmeans

/-- Sessions that are alike read the same element. -/
theorem fetchElement_withLeftovers {s d : State} (h : s.Alike (s.withLeftovers d)) (hs : s.TablesBuilt)
    (hs' : (s.withLeftovers d).TablesBuilt) :
    fetchElement (s.withLeftovers d) = (fetchElement s).withLeftovers d := by
  have hphase : (s.withLeftovers d).phase = s.phase := rfl
  unfold fetchElement
  rw [hphase]
  cases hp : s.phase with
  | blockHdr => exact fetchBlk_withLeftovers d s
  | dynCounts => exact fetchHdr_withLeftovers d s
  | clLens => exact fetchCllen_withLeftovers d s
  | clSyms =>
    obtain ⟨-, -, hidx, -⟩ : SameLive .clSyms s (s.withLeftovers d) := hp ▸ h.live
    exact fetchCl_withLeftovers hidx (h.clTable_eq hp hs hs')
  | symbols => exact fetchLl_withLeftovers (h.blockTables_eq hp hs hs').1
  | idle | buildCl | buildLd | done | fault => rfl

/-! ## The header elements -/

theorem SameCounts.nlit_eq {s s' : State} (h : SameCounts s s') : s'.nlit = s.nlit := by
  obtain ⟨-, hlit, -⟩ := h
  rw [State.nlit, hlit]
  rfl

theorem SameCounts.total_eq {s s' : State} (h : SameCounts s s') : s'.total = s.total := by
  have hnlit := h.nlit_eq
  obtain ⟨-, -, hdist⟩ := h
  rw [State.total, hnlit, State.ndist, hdist]
  rfl

/-! The views split the entries of the array below `total` (10_state.md R34). -/

theorem State.llLens_eq_take (s : State) : s.llLens = ((s.lens.toList.take s.total).take s.nlit).map (·.toNat) := by
  rw [List.take_take, State.total, Nat.min_eq_left (Nat.le_add_right _ _)]
  rfl

theorem State.dLens_eq_drop (s : State) : s.dLens = ((s.lens.toList.take s.total).drop s.nlit).map (·.toNat) := by
  rw [List.drop_take, State.total, Nat.add_sub_cancel_left]
  rfl

/-- The end of the CLSYM frame: arrays that are the same below `total` have the same views. -/
theorem clSymEnd_alike {s s' : State} (h : s.Alike s') (hp : s.phase = .clSyms) : (clSymEnd s).Alike (clSymEnd s') := by
  obtain ⟨d, rfl⟩ := h.exists_withLeftovers
  obtain ⟨hcounts, -, hidx, hlens⟩ : SameLive .clSyms s (s.withLeftovers d) := hp ▸ h.live
  have hnlit := hcounts.nlit_eq
  have htotal := hcounts.total_eq
  obtain ⟨hbfinal, -, -⟩ := hcounts
  unfold clSymEnd
  rw [hidx, htotal]
  split
  · next hfull =>
    rw [hfull] at hlens
    have hll : (s.withLeftovers d).llLens = s.llLens := by
      rw [State.llLens_eq_take, htotal, hnlit, hlens, s.llLens_eq_take]
    have hd : (s.withLeftovers d).dLens = s.dLens := by
      rw [State.dLens_eq_drop, htotal, hnlit, hlens, s.dLens_eq_drop]
    exact ⟨rfl, hbfinal, hll, hd⟩
  · exact h

/-- A filled array is known as far as it was before, and as far as it was filled. -/
theorem fillLens_take (v : BitVec 4) {n i : Nat} {lens : Vector (BitVec 4) 320} (h : i + n ≤ 320) :
    (fillLens v n i lens).toList.take (i + n) = lens.toList.take i ++ List.replicate n v := by
  induction n generalizing i lens with
  | zero => simp [fillLens]
  | succ n ih =>
    have hi : i < lens.toList.length := by rw [Vector.length_toList]; omega
    have hcount : i + (n + 1) = i + 1 + n := by omega
    rw [hcount, fillLens, ih (by omega), Vector.toList_setIfInBounds, List.take_add_one, List.getElem?_set_self hi,
      List.take_set_of_le le_rfl, List.replicate_succ, List.append_assoc]
    rfl

section ClSyms

variable {s s' : State}

/-- Lengths that are written from the same place on leave the arrays the same below `idx`. -/
theorem fillLens_alike (h : s.Alike s') (hp : s.phase = .clSyms) {n : Nat} (hn : s.idx + n ≤ 320) (v : BitVec 4)
    (sym rep sym' rep' : Nat) :
    State.Alike { s with sym := sym, rep := rep, lens := fillLens v n s.idx s.lens, idx := s.idx + n }
      { s' with sym := sym', rep := rep', lens := fillLens v n s'.idx s'.lens, idx := s'.idx + n } := by
  obtain ⟨d, rfl⟩ := h.exists_withLeftovers
  obtain ⟨hcounts, hcl, hidx, hlens⟩ : SameLive .clSyms s (s.withLeftovers d) := hp ▸ h.live
  refine ⟨rfl, ?_⟩
  change SameLive s.phase _ _
  rw [hp, hidx]
  refine ⟨hcounts, hcl, rfl, ?_⟩
  rw [fillLens_take v hn, fillLens_take v hn, hlens]

theorem clLiteral_sameOutcome (h : s.Alike s') (hp : s.phase = .clSyms) (v : BitVec 4) :
    SameOutcome (clLiteral v s) (clLiteral v s') := by
  obtain ⟨-, -, hidx, -⟩ : SameLive .clSyms s s' := hp ▸ h.live
  unfold clLiteral
  by_cases hin : s.idx < 320
  · rw [if_pos hin, if_pos (hidx ▸ hin)]
    exact ⟨_, rfl, clSymEnd_alike (fillLens_alike h hp (n := 1) hin v _ _ _ _) hp⟩
  · rw [if_neg hin, if_neg (hidx ▸ hin)]
    rfl

theorem clRun_eq_clSymEnd {rep : Nat} {v : BitVec 4} (h : ¬ s.total < s.idx + rep) :
    clRun rep v s =
      .next (clSymEnd { s with rep := rep, lens := fillLens v rep s.idx s.lens, idx := s.idx + rep }) := if_neg h

theorem clRun_sameOutcome (h : s.Alike s') (hp : s.phase = .clSyms) (rep : Nat) (v : BitVec 4) :
    SameOutcome (clRun rep v s) (clRun rep v s') := by
  obtain ⟨hcounts, -, hidx, -⟩ : SameLive .clSyms s s' := hp ▸ h.live
  have hsame : s'.total < s'.idx + rep ↔ s.total < s.idx + rep := by rw [hcounts.total_eq, hidx]
  by_cases hover : s.total < s.idx + rep
  · rw [clRun_of_lt hover, clRun_of_lt (hsame.2 hover)]
    exact .raise _ (by rw [h.leftovers]; rfl)
  · have hroom : s.idx + rep ≤ 320 := (Nat.le_of_not_lt hover).trans s.total_le
    rw [clRun_eq_clSymEnd hover, clRun_eq_clSymEnd (hover ∘ hsame.1)]
    exact ⟨_, rfl, clSymEnd_alike (fillLens_alike h hp hroom v _ _ _ _) hp⟩

end ClSyms

/-- No meaning reads `sym` or `extra`. -/
theorem State.Alike.withSymbol {s s' : State} (h : s.Alike s') (sym extra : Nat) :
    State.Alike { s with sym := sym, extra := extra } { s' with sym := sym, extra := extra } := by
  obtain ⟨d, rfl⟩ := h.exists_withLeftovers
  exact ⟨rfl, h.live⟩

theorem execCl16_sameOutcome {s s' : State} (h : s.Alike s') (hp : s.phase = .clSyms) (x : BitVec 2) :
    SameOutcome (execCl16 x s) (execCl16 x s') := by
  obtain ⟨-, -, hidx, hlens⟩ : SameLive .clSyms s s' := hp ▸ h.live
  by_cases hzero : s.idx = 0
  · rw [execCl16_of_idx_zero x hzero, execCl16_of_idx_zero x (hidx.trans hzero)]
    exact .raise _ (by rw [h.leftovers]; rfl)
  · have hlast : s'.lensAt (s'.idx - 1) = s.lensAt (s.idx - 1) := by
      have hget := congrArg (·.getD (s.idx - 1) 0) hlens
      have hlt : s.idx - 1 < s.idx := by omega
      simpa [State.lensAt, hidx, List.getElem?_take, hlt] using hget
    rw [execCl16_of_idx_ne_zero x hzero, execCl16_of_idx_ne_zero x (hidx ▸ hzero), hlast]
    exact clRun_sameOutcome (h.withSymbol 16 x.toNat) hp _ _

theorem execCllen_sameOutcome {s s' : State} (h : s.Alike s') (hp : s.phase = .clLens) (v : BitVec 3) :
    SameOutcome (execCllen v s) (execCllen v s') := by
  obtain ⟨d, rfl⟩ := h.exists_withLeftovers
  obtain ⟨hcounts, hclen, hcl, hcli⟩ : SameLive .clLens s (s.withLeftovers d) := hp ▸ h.live
  have hncl : (s.withLeftovers d).ncl = s.ncl := by rw [State.ncl, hclen]; rfl
  unfold execCllen
  rw [hcli]
  cases clOrder[s.cli]? with
  | none => rfl
  | some slot =>
    refine ⟨_, rfl, by rw [hncl]; rfl, ?_⟩
    change SameLive (if s.cli + 1 = s.ncl then .buildCl else s.phase) _ _
    rw [hp, hcl]
    split
    · exact ⟨hcounts, rfl⟩
    · exact ⟨hcounts, hclen, rfl, rfl⟩

/-- An element of the block's header does the same in sessions that are alike. -/
theorem exec_header_sameOutcome {i : Instr} {s s' : State} (h : s.Alike s') (hphase : i.phase = s.phase)
    (hheader : s.phase ≠ .symbols) : SameOutcome (exec i s) (exec i s') := by
  have hsame := h.leftovers
  rw [← hphase] at hheader
  cases exec_meaning i with
  | blockHeader f b hp hi =>
    rw [hi, hi, hsame]
    exact .ite ⟨_, rfl, rfl, rfl⟩ (.raise _ rfl)
  | counts l d c hp hi =>
    have hbfinal : SameLive .dynCounts s s' := hp ▸ hphase ▸ h.live
    rw [hi, hi]
    exact ⟨_, rfl, by rw [hsame]; rfl, ⟨hbfinal, rfl, rfl⟩, rfl, rfl, rfl⟩
  | clLength v hp hi => rw [hi, hi]; exact execCllen_sameOutcome h (hphase.symm.trans hp) v
  | codeLength v hp hi => rw [hi, hi]; exact clLiteral_sameOutcome h (hphase.symm.trans hp) v
  | repeatLength x hp hi => rw [hi, hi]; exact execCl16_sameOutcome h (hphase.symm.trans hp) x
  | zeroRun sym x rep hp hi =>
    rw [hi, hi]
    exact clRun_sameOutcome (h.withSymbol sym x) (hphase.symm.trans hp) rep 0
  | endOfBlock hi => subst hi; exact absurd rfl hheader
  | literal b hp | length n x hp | reservedLl n hp | distance m x hp | reservedDist m hp => exact absurd hp hheader

/-! ## The symbols of a block -/

/-- A copy reads and writes OUT; the `offset` that it leaves is read by nothing (43_block_symbols.md R171). -/
theorem copyLoop_sameOutcome {base n k : Nat} {s s' : State} (h : s.Alike s') :
    SameOutcome ((copyLoop base n k s).finish fun _ t => .next t) ((copyLoop base n k s').finish fun _ t => .next t) := by
  induction n generalizing k s s' with
  | zero => exact ⟨_, rfl, h⟩
  | succ n ih =>
    obtain ⟨d, rfl⟩ := h.exists_withLeftovers
    have hout : (s.withLeftovers d).out = s.out := rfl
    rw [copyLoop_succ, copyLoop_succ, hout]
    cases s.out.read (base + k) with
    | none => rfl
    | some b => exact ih ⟨rfl, h.live⟩

/-- The two halves of a back-reference pass on `length`, and so have it in common (43_block_symbols.md R163). -/
theorem exec_distance_sameOutcome {j : Instr} {s s' : State} (h : s.Alike s') (hlength : s'.length = s.length)
    (hj : MeansDistance j) : SameOutcome (exec j s) (exec j s') := by
  obtain ⟨d, rfl⟩ := h.exists_withLeftovers
  obtain ⟨m, x, -, hexec⟩ | ⟨m, hexec⟩ := hj
  · rw [hexec, hexec]
    simp only [distanceHalf, hlength]
    refine .ite (.raise _ rfl) (.ite (.raise _ rfl) ?_)
    exact copyLoop_sameOutcome ⟨rfl, h.live⟩
  · rw [hexec, hexec]
    exact .raise _ rfl

/-- A literal/length symbol that is no length. -/
theorem exec_symbol_sameOutcome {i : Instr} {s s' : State} (h : s.Alike s') (hp : s.phase = .symbols)
    (hi : (∃ b, i = .lit b) ∨ i = .eob ∨ MeansLength i) (hl : i.isLength = false) : SameOutcome (exec i s) (exec i s') := by
  obtain ⟨d, rfl⟩ := h.exists_withLeftovers
  obtain ⟨b, rfl⟩ | rfl | ⟨hlen, -⟩ | ⟨-, n, hn⟩ := hi
  · exact .ite (.raise _ rfl) ⟨_, rfl, rfl, h.live⟩
  · obtain ⟨hbfinal, -⟩ : SameLive .symbols s (s.withLeftovers d) := hp ▸ h.live
    change SameOutcome (execEob s) (execEob (s.withLeftovers d))
    simp only [execEob, hbfinal]
    exact .ite ⟨_, rfl, rfl, trivial⟩ ⟨_, rfl, rfl, trivial⟩
  · simp [hl] at hlen
  · rw [hn, hn]
    exact .raise _ rfl

/-! ## Steps (44_stream_control.md R192) -/

theorem distanceStep_sameOutcome {s s' : State} (h : s.Alike s') (hp : s.phase = .symbols)
    (hlength : s'.length = s.length) (hs : s.TablesBuilt) (hs' : s'.TablesBuilt) :
    SameOutcome (distanceStep s) (distanceStep s') := by
  have htable := (h.blockTables_eq hp hs hs').2
  obtain ⟨d, rfl⟩ := h.exists_withLeftovers
  rw [distanceStep, distanceStep, fetchDist_withLeftovers htable]
  cases hfetch : fetchDist s with
  | ok j t =>
    have hframe := fetchDist_ok hfetch
    refine exec_distance_sameOutcome (hframe.alike_withLeftovers h) ?_ (fetchDist_means hfetch)
    exact hlength.trans hframe.length_eq.symm
  | raised t =>
    obtain ⟨u, f, -, rfl⟩ := fetchDist_raised hfetch
    exact .raise (s := u) (s' := u.withLeftovers d) f rfl
  | stop x | refuse x => rfl

/-- The distance half follows a length half at once (43_block_symbols.md R163). -/
theorem elementStep_eq_distanceStep {s t u : State} {i : Instr} (h : fetchElement s = .ok i t) (hl : i.isLength = true)
    (hexec : exec i t = .next u) : elementStep s = distanceStep u := by
  simp [elementStep, h, hexec, hl]

theorem elementStep_sameOutcome {s s' : State} (h : s.Alike s') (hs : s.TablesBuilt) (hs' : s'.TablesBuilt) :
    SameOutcome (elementStep s) (elementStep s') := by
  obtain ⟨d, rfl⟩ := h.exists_withLeftovers
  have hsame := fetchElement_withLeftovers h hs hs'
  cases hfetch : fetchElement s with
  | ok i t =>
    have hfetch' : fetchElement (s.withLeftovers d) = .ok i (t.withLeftovers d) := by rw [hsame, hfetch]; rfl
    have hframe := fetchElement_ok hfetch
    have halike := hframe.alike_withLeftovers h
    have hphase : i.phase = t.phase := ((fetchElement_scans s).of_ok hfetch).2.1.trans hframe.phase_eq.symm
    cases hl : i.isLength with
    | false =>
      rw [elementStep_eq_exec hfetch hl, elementStep_eq_exec hfetch' hl]
      by_cases hp : s.phase = .symbols
      · rw [fetchElement_symbols hp] at hfetch
        exact exec_symbol_sameOutcome halike (hframe.phase_eq.trans hp) (fetchLl_means hfetch) hl
      · exact exec_header_sameOutcome halike hphase (hframe.phase_eq ▸ hp)
    | true =>
      obtain ⟨hp, n, x, hexec⟩ := exec_of_isLength hl
      rw [elementStep_eq_distanceStep hfetch hl (hexec t),
        elementStep_eq_distanceStep hfetch' hl (hexec (t.withLeftovers d))]
      exact distanceStep_sameOutcome ⟨rfl, halike.live⟩ (hphase.symm.trans hp) rfl
        (exec_tablesBuilt (hframe.tablesBuilt hs) hphase (hexec t))
        (exec_tablesBuilt ((fetchElement_ok hfetch').tablesBuilt hs') hphase (hexec (t.withLeftovers d)))
  | raised t =>
    obtain ⟨u, f, -, rfl⟩ := fetchElement_raised hfetch
    rw [elementStep, elementStep, hsame, hfetch]
    exact .raise (s := u) (s' := u.withLeftovers d) f rfl
  | stop x | refuse x =>
    rw [elementStep, elementStep, hsame, hfetch]
    rfl

theorem buildCl_sameOutcome {s s' : State} (h : s.Alike s') (hp : s.phase = .buildCl) :
    SameOutcome (buildCl s) (buildCl s') := by
  obtain ⟨d, rfl⟩ := h.exists_withLeftovers
  obtain ⟨hcounts, hcl⟩ : SameLive .buildCl s (s.withLeftovers d) := hp ▸ h.live
  have hlens : (s.withLeftovers d).clLens = s.clLens := by rw [State.clLens, hcl]; rfl
  cases husable : usable s.clLens with
  | true =>
    obtain ⟨codes, c, hnext, -⟩ := buildCl_of_usable husable
    obtain ⟨codes', c', hnext', -⟩ := buildCl_of_usable (s := s.withLeftovers d) (hlens ▸ husable)
    rw [hnext, hnext']
    exact ⟨_, rfl, rfl, hcounts, hcl, rfl, rfl⟩
  | false =>
    obtain ⟨c, hnext⟩ := buildCl_of_not_usable husable
    obtain ⟨c', hnext'⟩ := buildCl_of_not_usable (s := s.withLeftovers d) (hlens ▸ husable)
    rw [hnext, hnext']
    exact .raise _ rfl

theorem buildLd_sameOutcome {s s' : State} (h : s.Alike s') (hp : s.phase = .buildLd) :
    SameOutcome (buildLd s) (buildLd s') := by
  obtain ⟨d, rfl⟩ := h.exists_withLeftovers
  obtain ⟨hbfinal, hll, hd⟩ : SameLive .buildLd s (s.withLeftovers d) := hp ▸ h.live
  by_cases husable : usable s.llLens = true ∧ usable s.dLens = true
  · obtain ⟨_, _, _, hnext, -⟩ := buildLd_of_usable husable.1 husable.2
    obtain ⟨_, _, _, hnext', -⟩ :=
      buildLd_of_usable (s := s.withLeftovers d) (hll ▸ husable.1) (hd ▸ husable.2)
    rw [hnext, hnext']
    exact ⟨_, rfl, rfl, hbfinal, hll, hd⟩
  · rw [not_and_or, Bool.not_eq_true, Bool.not_eq_true] at husable
    obtain ⟨_, _, hnext⟩ := buildLd_of_not_usable husable
    obtain ⟨_, _, hnext'⟩ := buildLd_of_not_usable (s := s.withLeftovers d) (by rwa [hll, hd])
    rw [hnext, hnext']
    exact .raise _ rfl

/-- Every step of the sequencer keeps two sessions alike. -/
theorem step_sameOutcome {s s' : State} (h : s.Alike s') (hquiet : s.hostCmd = none) (hs : s.TablesBuilt)
    (hs' : s'.TablesBuilt) : SameOutcome (step s) (step s') := by
  obtain ⟨d, rfl⟩ := h.exists_withLeftovers
  have hquiet' : (s.withLeftovers d).hostCmd = none := hquiet
  simp only [step, machineStep, hquiet, hquiet']
  refine .ite ?_ rfl
  have hphase : (s.withLeftovers d).phase = s.phase := rfl
  rw [hphase]
  cases hp : s.phase with
  | buildCl => exact buildCl_sameOutcome h hp
  | buildLd => exact buildLd_sameOutcome h hp
  | blockHdr | dynCounts | clLens | clSyms | symbols => exact elementStep_sameOutcome h hs hs'
  | idle | done | fault => rfl

/-- The host sees the same of sessions that are alike. -/
theorem State.Alike.observeRun_eq {s s' : State} (h : s.Alike s') (hquiet : s.hostCmd = none) (hs : s.TablesBuilt)
    (hs' : s'.TablesBuilt) (k : Nat) : observeRun k s' = observeRun k s := by
  induction k generalizing s s' with
  | zero => exact congrArg some h.observe_eq
  | succ k ih =>
    have hsame := step_sameOutcome h hquiet hs hs'
    cases hstep : step s with
    | next t =>
      rw [hstep] at hsame
      obtain ⟨t', hstep', halike⟩ := hsame
      rw [observeRun_succ_of_next hstep, observeRun_succ_of_next hstep']
      exact ih halike ((step_grows hquiet hstep).hostCmd_eq.trans hquiet) (stepKeepsCodeTables s t hs hstep)
        (stepKeepsCodeTables s' t' hs' hstep')
    | fault x | refused x =>
      simp only [hstep, SameOutcome] at hsame
      rw [observeRun_succ_of_stop (by simp [hsame]), observeRun_succ_of_stop (by simp [hstep])]

/-- Sessions of one START begin alike: PH_BLOCK_HDR reads none of the leftovers. -/
theorem sessionStart_alike (src : List Byte) (p : Nat) (cap : Option Nat) (s s' : State) :
    (sessionStart src p cap s).Alike (sessionStart src p cap s') := ⟨rfl, trivial⟩

/-- Settles O58: the START is refused in both states or in neither, and the two sessions begin alike. -/
theorem earlierSessionsAreForgotten : Obligations.EarlierSessionsAreForgotten := by
  intro s s' src p k cap hidle hidle'
  have htables (u : State) : (sessionStart src p cap u).TablesBuilt := State.tablesBuilt_of_phase nofun nofun
  rw [observeRun_askStart, observeRun_askStart,
    (sessionStart_alike src p cap s s').observeRun_eq rfl (htables s) (htables s')]
  simp only [ne_eq, hidle, hidle', not_false_eq_true]

end Sys2Proof.Machine
